-- ==== Sys2Proof/Word.lean ====
section
/-!
DEFINITION. The word types of the core (00_scope.md R9): a byte is 8 bits, a halfword 16, a word 32;
every value is unsigned and bit 0 is the least significant.
-/

namespace Sys2Proof

/-- A byte, 8 bits (R9). -/
abbrev Byte := BitVec 8

/-- A halfword, 16 bits (R9): a checksum, a column count, the stabilization window. -/
abbrev Half := BitVec 16

/-- A word, 32 bits (R9): a register as the host sees it, a bus address, a command. -/
abbrev Word := BitVec 32

end Sys2Proof
end

