-- ==== Sys2Proof/Syntax.lean ====
section
/-!
DEFINITION. The command set (30_encoding.md R101): one constructor for each row of the opcode table.
A command has no operand fields (R100): every operand is a register or buffer its rule names (R111).
-/

namespace Sys2Proof

/-- The 15 commands of 30_encoding.md R101, each with the rule of its meaning. -/
inductive Instr
  /-- NOP, 46_control.md R300 -/
  | nop
  /-- SOFT_RESET, 46_control.md R301 -/
  | softReset
  /-- INVERT, 40_border.md R138 -/
  | invert
  /-- CLASSIFY, 40_border.md R139 -/
  | classify
  /-- STABILIZE, 40_border.md R140 -/
  | stabilize
  /-- SELECT, 41_select.md R165 -/
  | select
  /-- XOR_APPLY, 41_select.md R166 -/
  | xorApply
  /-- RLE_ENC, 42_rle.md R185 -/
  | rleEnc
  /-- RLE_DEC, 42_rle.md R186 -/
  | rleDec
  /-- CRC_GEN, 43_crc.md R215 -/
  | crcGen
  /-- CRC_CHECK, 43_crc.md R216 -/
  | crcCheck
  /-- FRAME_EMIT, 44_framer.md R232 -/
  | frameEmit
  /-- ENC_CLIP, 44_framer.md R234 -/
  | encClip
  /-- DEC_FRAME, 45_decoder.md R269 -/
  | decFrame
  /-- DEC_RESTART, 45_decoder.md R273 -/
  | decRestart
deriving DecidableEq, Repr

end Sys2Proof
end

