-- ==== Sys2Proof/Config.lean ====
section
/-!
DEFINITION. What an implementation of the core fixes: the parameters of 00_scope.md R6, the fixed
constants of that table, and the model's free values (opaque: nothing in Lean can evaluate them).
-/

namespace Sys2Proof

/-- P_PIXEL_ORDER (R6): which bit of a byte holds the leftmost of its 8 pixels. -/
inductive PixelOrder
  | msbFirst
  | lsbFirst
deriving DecidableEq, Repr

/-- P_ZERO_RUN (R6): what the decoder does with a run pair whose count is 0. -/
inductive ZeroRun
  | reject
  | accept
deriving DecidableEq, Repr

/-- P_FAIL_POLICY (R6): whether a decode failure invalidates the frame cache. -/
inductive FailPolicy
  | invalidate
  | keep
deriving DecidableEq, Repr

/-- P_OUT_CONV (R6): the bit convention of the frame handed to the renderer. -/
inductive OutConv
  | raw
  | stream
deriving DecidableEq, Repr

/-- The parameters of R6 that are not fixed. A machine state carries one value of this type, which no
step changes, so a statement about every state is a statement about every parameter value (log 1). -/
structure Params where
  /-- P_W, frame width in pixels. -/
  width : Nat
  /-- P_H, frame height in rows. -/
  height : Nat
  /-- P_MAX_FRAMES, frames the clip memory holds (OPEN). -/
  maxFrames : Nat
  pixelOrder : PixelOrder
  zeroRun : ZeroRun
  failPolicy : FailPolicy
  outConv : OutConv
  /-- P_BASE, host address of the core's window (OPEN; no rule depends on it). -/
  base : Nat
deriving DecidableEq, Repr

namespace Params

/-- `P_W / 8`, the bytes of one frame row (R8). -/
def rowBytes (p : Params) : Nat := p.width / 8

/-- `N = P_W * P_H / 8`, the frame size in bytes (R6). -/
def frameBytes (p : Params) : Nat := p.width * p.height / 8

/-- The host's own address of a block address: the core's window stands at P_BASE (20_memory.md R70). -/
def hostAddress (p : Params) (block : Nat) : Nat := p.base + block

end Params

namespace Config

/-- RUN_MAX, the largest run count (R6, fixed). -/
def runMax : Nat := 255

/-- CRC_POLY (R6, fixed). -/
def crcPoly : Half := 0x1021

/-- CRC_SEED (R6, fixed). -/
def crcSeed : Half := 0xFFFF

/-- P_WINDOW_RESET, the reset value of the stabilization window (R6, fixed). -/
def windowReset : Half := 15

/-- KEY_NUM, numerator of the keyframe density threshold (R6, fixed). -/
def keyNum : Nat := 3

/-- KEY_DEN, denominator of the keyframe density threshold (R6, fixed). -/
def keyDen : Nat := 4

/-- FREE VALUE (10_state.md R64, log 3): what the `k`-th draw of the byte at a block address gives,
where nothing has written that byte since power-on. -/
opaque draw : (k : Nat) → (address : Nat) → Byte

/-- FREE VALUE (log 8): DEC_CONSUMED after a DEC_FRAME that consumed this many bytes, where the count
does not fit the register's 32 bits. -/
opaque decConsumedBeyond : (consumed : Nat) → Word

/-- FREE VALUE: the OPEN parameter P_MAX_FRAMES (R6, log 1) of the machine that `State.reset` describes,
before it is brought into its range 1 to 65536. -/
opaque openMaxFrames : Nat

/-- FREE VALUE: the OPEN parameter P_BASE (R6, log 1) of the machine that `State.reset` describes. -/
opaque openBase : Nat

/-- The parameters of the machine that `State.reset` describes: every default of R6, the OPEN ones
free (P_MAX_FRAMES anywhere in its range 1 to 65536). -/
def params : Params where
  width := 80
  height := 64
  maxFrames := openMaxFrames % 65536 + 1
  pixelOrder := .msbFirst
  zeroRun := .reject
  failPolicy := .invalidate
  outConv := .raw
  base := openBase

end Config

end Sys2Proof
end

