-- ==== Sys2Proof/WellFormed.lean ====
section
/-!
DEFINITION. Well-formedness of what the model is given: the parameters (the ranges of 00_scope.md R6),
and commands (which have no operand fields, so that each is well formed).
-/

namespace Sys2Proof

/-- The ranges of R6: P_W a multiple of 8 with 8 ≤ P_W, 1 ≤ P_H, N ≤ 32768, 1 ≤ P_MAX_FRAMES ≤ 65536; and
P_W ≤ 65535, which 10_state.md R36 states (log 15; that P_H ≤ 32768 and 1 ≤ N follow). -/
def Params.wf (p : Params) : Bool :=
  decide (8 ≤ p.width) && decide (p.width ≤ 65535) && decide (p.width % 8 = 0) && decide (1 ≤ p.height)
    && decide (p.frameBytes ≤ 32768) && decide (1 ≤ p.maxFrames) && decide (p.maxFrames ≤ 65536)

/-- A command names no register, no immediate and no address (30_encoding.md R100, R111): there is
nothing in one that could be ill formed. What can be ill formed is a command WORD; the decoder rejects
those by name. -/
def Instr.wf : Instr → Bool
  | .nop => true
  | .softReset => true
  | .invert => true
  | .classify => true
  | .stabilize => true
  | .select => true
  | .xorApply => true
  | .rleEnc => true
  | .rleDec => true
  | .crcGen => true
  | .crcCheck => true
  | .frameEmit => true
  | .encClip => true
  | .decFrame => true
  | .decRestart => true

end Sys2Proof
end

