-- ==== Sys2Proof/Decode.lean ====
section
/-!
DEFINITION. The decoder of command words (30_encoding.md R100 to R102), total on every 32-bit word, and
after it the encoder, written from the same table.
-/

namespace Sys2Proof

/-- Why a word is no legal command (R100, R102). -/
inductive Reject
  /-- ARG_RSVD, bits [31:8], is not 0 (R100). -/
  | argReserved
  /-- OPCODE, bits [7:0], is no row of R101. -/
  | opcodeReserved
deriving DecidableEq, Repr

/-- What the decoder answers: one of the 15 legal commands, or illegal (R102). -/
inductive Decoded
  | legal (i : Instr)
  | illegal (r : Reject)
deriving DecidableEq, Repr

/-- The legal command, if the word is one. -/
def Decoded.instr? : Decoded → Option Instr
  | .legal i => some i
  | .illegal _ => none

/-- OPCODE, bits [7:0] of a command word (R100). -/
def opcodeField (w : Word) : Byte := w.extractLsb' 0 8

/-- ARG_RSVD, bits [31:8] of a command word (R100). -/
def argField (w : Word) : BitVec 24 := w.extractLsb' 8 24

/-- The opcode map of R101, row by row. -/
def opcodeMap : List (Byte × Instr) :=
  [(0x00, .nop), (0x01, .softReset),
   (0x10, .invert), (0x11, .classify), (0x12, .stabilize),
   (0x20, .select), (0x21, .xorApply),
   (0x30, .rleEnc), (0x31, .rleDec),
   (0x40, .crcGen), (0x41, .crcCheck),
   (0x50, .frameEmit), (0x51, .encClip),
   (0x60, .decFrame), (0x61, .decRestart)]

/-- The row of a list of opcode rows that an opcode selects. -/
def lookupOpcode (op : Byte) : List (Byte × Instr) → Option Instr
  | [] => none
  | (o, i) :: rows => if op = o then some i else lookupOpcode op rows

/-- The decoder: a word is a legal command iff ARG_RSVD = 0 and OPCODE is a row of R101 (R100, R102). -/
def decode (w : Word) : Decoded :=
  if argField w = 0 then
    match lookupOpcode (opcodeField w) opcodeMap with
    | some i => .legal i
    | none => .illegal .opcodeReserved
  else .illegal .argReserved

/-- What the decoder reads from a table row's word: the word is the 32-bit value the host writes to CMD
(R100); bits above `nbits` are 0. -/
def decodeTableWord (nbits w : Nat) : Option Instr :=
  (decode (BitVec.ofNat 32 (w % 2 ^ nbits))).instr?

/-- OPCODE of each command, from R101. -/
def opcode : Instr → Byte
  | .nop => 0x00
  | .softReset => 0x01
  | .invert => 0x10
  | .classify => 0x11
  | .stabilize => 0x12
  | .select => 0x20
  | .xorApply => 0x21
  | .rleEnc => 0x30
  | .rleDec => 0x31
  | .crcGen => 0x40
  | .crcCheck => 0x41
  | .frameEmit => 0x50
  | .encClip => 0x51
  | .decFrame => 0x60
  | .decRestart => 0x61

/-- The encoder: the full word is `0x000000` followed by the OPCODE (R101). -/
def encode (i : Instr) : Word := (0 : BitVec 24) ++ opcode i

end Sys2Proof
end

