-- ==== Sys2Proof/Machine/State.lean ====
section
/-!
DEFINITION. The state of the core (10_state.md), plain data: its registers, the one memory that holds
every buffer, the frame cache's validity, the hidden decoder state, the environment its ports connect,
and the host accesses not served yet. Also the state after power-on reset (10_state.md R63).
-/

namespace Sys2Proof.Machine

/-- The failure kinds of 60_exceptions.md R321. -/
inductive FailKind
  | streamTruncated
  | runOverflow
  | checksumMismatch
  | deltaWithoutHistory
  | zeroRun
deriving DecidableEq, Repr

/-- The four phases of a DEC_FRAME in which it may fail (45_decoder.md R261; FAIL_PHASE of 10_state.md R34). -/
inductive WorkPhase
  | awaitingHeader
  | decodingRuns
  | applyingDelta
  | verifyingChecksum
deriving DecidableEq, Repr

/-- The decoder phase (10_state.md R59): idle before any DEC_FRAME since reset, the working phases inside
one, and the terminal phase the last one ended in (log 7). -/
inductive Phase
  | idle
  | working (p : WorkPhase)
  | committed
  | failed
deriving DecidableEq, Repr

/-- The stored fields of STATUS (10_state.md R34). STATUS.CACHE_VALID is a mirror of `State.cacheValid`
and is not stored here; reserved bits have no field and read 0. -/
structure Status where
  ok : Bool
  illegal : Bool
  produced : Bool
  key : Bool
  crcMatch : Bool
  truncAtBoundary : Bool
  /-- DEC_ERR; `none` is code 0. -/
  decErr : Option FailKind
  /-- RLE_ERR; `none` is code 0. -/
  rleErr : Option FailKind
  /-- FAIL_PHASE; `none` is code 0. -/
  failPhase : Option WorkPhase
deriving DecidableEq, Repr

/-- STATUS after reset: every field 0 (10_state.md R63). -/
def Status.cleared : Status where
  ok := false
  illegal := false
  produced := false
  key := false
  crcMatch := false
  truncAtBoundary := false
  decErr := none
  rleErr := none
  failPhase := none

/-- The named registers of 10_state.md R32. -/
inductive Reg
  | cmd | status | cfgWindow | geom | frameBytes | clipFrames | encBytes | crcResult | crcExpect
  | decHdr | runLen | runPos | sel | nzCount | cls | white | hdrArg | decConsumed
deriving DecidableEq, Repr

/-- The memory windows of 20_memory.md R70. -/
inductive Window
  | fbA | fbB | fbC | runbuf | cache | frameOut | seqMaj | seqStb | clipMem
deriving DecidableEq, Repr

/-- The widths of a host access: n = 1, 2 or 4 bytes (20_memory.md R72). -/
inductive Width
  | one | two | four
deriving DecidableEq, Repr

/-- One event of the total order of 20_memory.md R77: a host access at a block address, or a change of
the environment or of power between commands. -/
inductive HostOp
  /-- MemRead(addr, n) (20_memory.md R72). -/
  | read (addr : Word) (n : Width)
  /-- MemWrite(addr, n, v) (20_memory.md R72); a write to CMD starts a command (10_state.md R33). -/
  | write (addr : Word) (n : Width) (v : Word)
  /-- The environment replaces IN_BYTES and sets IN_POS (20_memory.md R83, 70_reset_and_hazards.md R359). -/
  | setInput (bytes : List Byte) (pos : Nat)
  /-- The environment replaces the sink sequence OUT_BYTES (20_memory.md R76, log 10). -/
  | setSink (bytes : List Byte)
  /-- Power-on reset (70_reset_and_hazards.md R350, log 9). -/
  | powerOn
deriving DecidableEq, Repr

/-- One render event: `Render(FRAME_OUT, BORDER_L, BORDER_R)` (10_state.md R57). -/
structure RenderEvent where
  frame : List Byte
  borderL : Bool
  borderR : Bool
deriving DecidableEq, Repr

/-- A byte memory: cells (block address, byte), addresses strictly rising. An address with no cell is one
that nothing has written since power-on: it holds no defined value (10_state.md R64, log 3). -/
abbrev Memory := List Host.Cell

/-- The canonical form: addresses strictly rise, so that no address has two cells. (An unlisted address
reads as no value, and no cell is equal to that.) -/
abbrev Memory.wf (m : Memory) : Prop := m.Pairwise (fun x y => x.1 < y.1)

/-- The state of the machine. Every field's docstring names the rule of 10_state.md it comes from. -/
structure State where
  /-- The parameters (00_scope.md R6): constant, no step changes them (log 1). -/
  cfg : Params
  /-- CMD, R33. -/
  cmd : Word
  /-- STATUS, R34. -/
  status : Status
  /-- CFG_WINDOW.WINDOW, R35. -/
  cfgWindow : Half
  /-- CLIP_FRAMES, R38. -/
  clipFrames : Word
  /-- ENC_BYTES, R39. -/
  encBytes : Word
  /-- CRC_RESULT.CRC, R40. -/
  crcResult : Half
  /-- CRC_EXPECT.CRC, R41. -/
  crcExpect : Half
  /-- DEC_HDR.HDR, R42. -/
  decHdr : Byte
  /-- RUN_LEN, R43. -/
  runLen : Word
  /-- RUN_POS, R44. -/
  runPos : Word
  /-- SEL.HAS_PREV, R45. -/
  selHasPrev : Bool
  /-- NZ_COUNT, R46. -/
  nzCount : Word
  /-- CLASS.MAJ_L, R47. -/
  majL : Bool
  /-- CLASS.MAJ_R, R47. -/
  majR : Bool
  /-- WHITE.WHITE_L, R48. -/
  whiteL : Half
  /-- WHITE.WHITE_R, R48. -/
  whiteR : Half
  /-- HDR_ARG.HDR, R49. -/
  hdrArg : Byte
  /-- DEC_CONSUMED, R50. -/
  decConsumed : Word
  /-- FB_A, FB_B, FB_C, RUNBUF, CACHE, SEQ_MAJ, SEQ_STB and CLIP_MEM, each at its block addresses
  (20_memory.md R70; R52 to R54, R60, R61). -/
  mem : Memory
  /-- CACHE_VALID, R54. -/
  cacheValid : Bool
  /-- WORK, R59: the N bytes inside a DEC_FRAME, no byte defined between commands (log 6). -/
  work : List Byte
  /-- The decoder phase, R59 (log 7). -/
  phase : Phase
  /-- IN_BYTES, R55 (environment). -/
  inBytes : List Byte
  /-- IN_POS, R55 (environment). -/
  inPos : Nat
  /-- OUT_BYTES, R56 (environment). -/
  outBytes : List Byte
  /-- RENDER_EVENTS, R57 (environment), oldest first. -/
  renderEvents : List RenderEvent
  /-- The model's own: host accesses and environment events not served yet, oldest first (log 2). -/
  hostQueue : List HostOp
  /-- The model's own: the values MemRead has returned to the host, oldest first (log 5). -/
  hostReads : List Word
  /-- The model's own: how many times a free value has been drawn for unwritten bytes (log 3). -/
  draws : Nat
deriving DecidableEq, Repr

/-- Why a step may stop the machine with a fault: NEVER. "No command of the core traps, halts the core, or
transfers control anywhere" (60_exceptions.md R320) and bus accesses never fail (R324), so there is no
constructor (log 11). -/
inductive Fault
deriving DecidableEq, Repr

/-- Why a step may be refused. -/
inductive Refusal
  /-- Raised by exec's arm for a command that has no meaning in the model yet (safe). No arm is refused:
  every command of the table has its meaning. -/
  | notModelled (mnemonic : String)
deriving DecidableEq, Repr

/-- The machine right after power-on reset, for given parameters (10_state.md R63, 70_reset_and_hazards.md
R350): every register 0 but CFG_WINDOW = 15, CACHE_VALID = 0, the decoder idle, no memory byte defined. The
environment, which a core reset does not set (R353), is empty (log 4). -/
def State.afterPowerOn (p : Params) : State where
  cfg := p
  cmd := 0
  status := Status.cleared
  cfgWindow := Config.windowReset
  clipFrames := 0
  encBytes := 0
  crcResult := 0
  crcExpect := 0
  decHdr := 0
  runLen := 0
  runPos := 0
  selHasPrev := false
  nzCount := 0
  majL := false
  majR := false
  whiteL := 0
  whiteR := 0
  hdrArg := 0
  decConsumed := 0
  mem := []
  cacheValid := false
  work := []
  phase := .idle
  inBytes := []
  inPos := 0
  outBytes := []
  renderEvents := []
  hostQueue := []
  hostReads := []
  draws := 0

/-- The machine right after reset, with the default parameters (00_scope.md R6, log 1). -/
def State.reset : State := State.afterPowerOn Config.params

end Sys2Proof.Machine
end

