-- ==== Sys2Proof/Machine/Ops.lean ====
section
/-!
DEFINITION. The named operations over memory, ports and the frame cache that the meanings share.
There is no exception entry and no return: no command traps (60_exceptions.md R320, R326, R327). What
stands in its place is the two ways a command reports a failure without stopping the core: a DEC_FRAME's
`fail` (45_decoder.md R268) and the illegal command (46_control.md R302).
-/

namespace Sys2Proof.Machine

/-! ### Bytes and words -/

/-- `not8(v)` (00_scope.md R10). -/
def not8 (v : Byte) : Byte := ~~~v

/-- `xor8(a, b)` (00_scope.md R10). -/
def xor8 (a b : Byte) : Byte := a ^^^ b

/-- The value of a little-endian byte sequence, `Σ byte(k) << (8k)` (20_memory.md R73). -/
def leValue : List Byte → Nat
  | [] => 0
  | b :: bs => b.toNat + 256 * leValue bs

/-- The first `n` little-endian bytes of a value, `v[8k+7:8k]` for k < n (20_memory.md R73). -/
def leBytes : (n : Nat) → Nat → List Byte
  | 0, _ => []
  | n + 1, v => BitVec.ofNat 8 v :: leBytes n (v / 256)

/-! ### Memory -/

/-- The byte at an address, or none where nothing has written it since power-on. -/
def Memory.get? : Memory → Nat → Option Byte
  | [], _ => none
  | (k, b) :: m, a => if a = k then some b else Memory.get? m a

/-- Consecutive cells from a base address. -/
def Memory.cells : (base : Nat) → List Byte → Memory
  | _, [] => []
  | base, b :: bs => (base, b) :: Memory.cells (base + 1) bs

/-- Store a byte sequence from a base address on; every other address keeps what it had. -/
def Memory.write (m : Memory) (base : Nat) (bs : List Byte) : Memory :=
  m.filter (fun c => decide (c.1 < base)) ++ Memory.cells base bs
    ++ m.filter (fun c => decide (base + bs.length ≤ c.1))

namespace State

/-- The byte at a block address, or none where nothing has written it since power-on (10_state.md R64). -/
def byteAt (s : State) (a : Nat) : Option Byte := s.mem.get? a

/-- A read of one byte: its value, or a free value where it has none (10_state.md R64, log 3). -/
def readByte (s : State) (a : Nat) : Byte := (s.byteAt a).getD (Config.draw s.draws a)

/-- A read of `n` consecutive bytes. -/
def readBytes (s : State) (base n : Nat) : List Byte :=
  (List.range n).map (fun i => s.readByte (base + i))

/-- Store consecutive bytes. -/
def writeBytes (s : State) (base : Nat) (bs : List Byte) : State :=
  { s with mem := s.mem.write base bs }

/-- The end of an access that may have read unwritten bytes: the next one draws new free values (log 3). -/
def nextDraw (s : State) : State := { s with draws := s.draws + 1 }

/-! ### Ports (10_state.md R55 to R57) -/

/-- The bytes of the input stream not read yet. -/
def unread (s : State) : List Byte := s.inBytes.drop s.inPos

/-- Consume `k` bytes that InRead has returned: IN_POS advances by one for each (R55). -/
def advanceInput (s : State) (k : Nat) : State := { s with inPos := s.inPos + k }

/-- InRead() (R55): the next byte, IN_POS advanced, or EOF with IN_POS unchanged. -/
def inRead (s : State) : Option Byte × State :=
  match s.unread with
  | b :: _ => (some b, s.advanceInput 1)
  | [] => (none, s)

/-- InSeek0() (R55). -/
def inSeek0 (s : State) : State := { s with inPos := 0 }

/-- OutWrite of each byte in turn (R56): the sink always accepts. -/
def outWrite (s : State) (bs : List Byte) : State := { s with outBytes := s.outBytes ++ bs }

/-- Render(frame, bl, br) (R57): one event appended. -/
def render (s : State) (e : RenderEvent) : State := { s with renderEvents := s.renderEvents ++ [e] }

/-- Enter a decoder phase (10_state.md R59). -/
def enterPhase (s : State) (p : Phase) : State := { s with phase := p }

/-- Fill WORK (10_state.md R59); the empty list leaves no byte of it defined. -/
def setWork (s : State) (bs : List Byte) : State := { s with work := bs }

/-- Record the last CRC computed (10_state.md R40). -/
def setCrc (s : State) (c : Half) : State := { s with crcResult := c }

end State

/-! ### The two failure reports -/

/-- DEC_CONSUMED for a count of consumed bytes (10_state.md R50): the count, where it fits the register's
32 bits; else no rule gives the register's value, and it is a free value (log 8). -/
def consumedWord (k : Nat) : Word :=
  if k < 2 ^ 32 then BitVec.ofNat 32 k else Config.decConsumedBeyond k

/-- `fail(kind, phase)` (45_decoder.md R268), the one way a DEC_FRAME ends in Failed; `start` is IN_POS at
the command's start. WORK is discarded; CACHE's bytes, DEC_HDR and CRC_RESULT stay; the cache's validity
follows P_FAIL_POLICY (R275); there is no render event. -/
def State.decodeFail (s : State) (kind : FailKind) (phase : WorkPhase) (start : Nat) : State :=
  { s with
    work := []
    phase := .failed
    cacheValid := if s.cfg.failPolicy = .invalidate then false else s.cacheValid
    status := { s.status with
      produced := false
      ok := false
      illegal := false
      decErr := some kind
      failPhase := some phase
      truncAtBoundary := decide (kind = .streamTruncated ∧ phase = .awaitingHeader) }
    decConsumed := consumedWord (s.inPos - start) }

/-- The effect of a CMD write of a word that is no legal command, CMD itself apart (46_control.md R302):
ILLEGAL <- 1, OK <- 0, nothing else. -/
def State.illegalCommand (s : State) : State :=
  { s with status := { s.status with illegal := true, ok := false } }

end Sys2Proof.Machine
end

