-- ==== Sys2Proof/Machine/Flags.lean ====
section
/-!
DEFINITION. STATUS: its layout as the host reads it (10_state.md R34), the codes of its fields
(60_exceptions.md R321), and the flags every legal command writes (46_control.md R303).
-/

namespace Sys2Proof.Machine

/-- The 4-bit code of a failure kind in DEC_ERR and RLE_ERR (60_exceptions.md R321); 0 is no failure. -/
def failCode : Option FailKind → BitVec 4
  | none => 0
  | some .streamTruncated => 1
  | some .runOverflow => 2
  | some .checksumMismatch => 3
  | some .deltaWithoutHistory => 4
  | some .zeroRun => 5

/-- The 3-bit code of FAIL_PHASE (10_state.md R34); 0 is no failure. -/
def phaseCode : Option WorkPhase → BitVec 3
  | none => 0
  | some .awaitingHeader => 1
  | some .decodingRuns => 2
  | some .applyingDelta => 3
  | some .verifyingChecksum => 4

/-- STATUS as a word (10_state.md R34), from bit 31 down: reserved [31:19], FAIL_PHASE [18:16],
RLE_ERR [15:12], DEC_ERR [11:8], reserved [7], TRUNC_AT_BOUNDARY [6], CRC_MATCH [5], KEY [4],
CACHE_VALID [3], PRODUCED [2], ILLEGAL [1], OK [0]. -/
def State.statusWord (s : State) : Word :=
  (0 : BitVec 13) ++ phaseCode s.status.failPhase ++ failCode s.status.rleErr ++ failCode s.status.decErr
    ++ (0 : BitVec 1) ++ BitVec.ofBool s.status.truncAtBoundary ++ BitVec.ofBool s.status.crcMatch
    ++ BitVec.ofBool s.status.key ++ BitVec.ofBool s.cacheValid ++ BitVec.ofBool s.status.produced
    ++ BitVec.ofBool s.status.illegal ++ BitVec.ofBool s.status.ok

/-- What every legal command writes to STATUS at its end (46_control.md R303): OK as its rule gives it,
ILLEGAL <- 0; every other field keeps its value. -/
def State.complete (s : State) (ok : Bool) : State :=
  { s with status := { s.status with ok := ok, illegal := false } }

end Sys2Proof.Machine
end

