-- ==== Sys2Proof/Machine/Operands.lean ====
section
/-!
DEFINITION. The operands of the commands: the buffers of 20_memory.md R70 at their block addresses, and
how a command reads and writes each (30_encoding.md R111). No command has an immediate or a register
operand.
-/

namespace Sys2Proof.Machine

/-- Where a window begins (20_memory.md R70). -/
def Window.base : Window → Nat
  | .fbA => 0x00010000
  | .fbB => 0x00020000
  | .fbC => 0x00030000
  | .runbuf => 0x00040000
  | .cache => 0x00050000
  | .frameOut => 0x00060000
  | .seqMaj => 0x00070000
  | .seqStb => 0x00080000
  | .clipMem => 0x10000000

/-- How many bytes of a window are used (20_memory.md R70). -/
def Window.size (p : Params) : Window → Nat
  | .fbA => p.frameBytes
  | .fbB => p.frameBytes
  | .fbC => p.frameBytes
  | .runbuf => 2 * p.frameBytes
  | .cache => p.frameBytes
  | .frameOut => p.frameBytes
  | .seqMaj => p.maxFrames
  | .seqStb => p.maxFrames
  | .clipMem => p.maxFrames * p.frameBytes

/-- Whether the host may write a window (20_memory.md R70). -/
def Window.hostWritable : Window → Bool
  | .fbA => true
  | .fbB => true
  | .fbC => true
  | .runbuf => true
  | .cache => false
  | .frameOut => false
  | .seqMaj => true
  | .seqStb => true
  | .clipMem => true

/-- Bits [1:0] of a byte: the bits of a SEQ_MAJ or SEQ_STB entry that exist (10_state.md R60). -/
def seqMask (b : Byte) : Byte := b &&& 3

/-- An entry of SEQ_MAJ or SEQ_STB: the left value in bit 0, the right value in bit 1 (10_state.md R60). -/
def seqEntry (l r : Bool) : Byte := (0 : BitVec 6) ++ BitVec.ofBool r ++ BitVec.ofBool l

/-- The left values of a sequence of entries. -/
def seqLefts (es : List Byte) : List Bool := es.map (fun e => e.getLsbD 0)

/-- The right values of a sequence of entries. -/
def seqRights (es : List Byte) : List Bool := es.map (fun e => e.getLsbD 1)

/-- The bytes of a frame as the renderer receives them (10_state.md R57). -/
def outFrame (c : OutConv) (fr : List Byte) : List Byte :=
  match c with
  | .raw => fr.map not8
  | .stream => fr

namespace State

/-- N, the frame size of this machine (00_scope.md R6). -/
def frameSize (s : State) : Nat := s.cfg.frameBytes

/-- The N bytes of a frame-sized window: FB_A, FB_B, FB_C or CACHE (10_state.md R52, R54). -/
def readFrame (s : State) (w : Window) : List Byte := s.readBytes w.base s.frameSize

/-- Write a byte sequence at the start of a window. -/
def writeWindow (s : State) (w : Window) (bs : List Byte) : State := s.writeBytes w.base bs

/-- RUNBUF[0..RUN_LEN) (10_state.md R53). -/
def readRunList (s : State) : List Byte := s.readBytes Window.runbuf.base s.runLen.toNat

/-- F = CLIP_FRAMES (10_state.md R38). -/
def clipLength (s : State) : Nat := s.clipFrames.toNat

/-- Wn = CFG_WINDOW.WINDOW (10_state.md R35). -/
def stabWindow (s : State) : Nat := s.cfgWindow.toNat

/-- SEQ_MAJ[0..F) (10_state.md R60). -/
def readMajorities (s : State) : List Byte := s.readBytes Window.seqMaj.base s.clipLength

/-- clip[f] = CLIP_MEM[f*N .. (f+1)*N) (10_state.md R61). -/
def readClipFrame (s : State) (f : Nat) : List Byte :=
  s.readBytes (Window.clipMem.base + f * s.frameSize) s.frameSize

/-- clip[0..F) (44_framer.md R234). -/
def readClip (s : State) : List (List Byte) := (List.range s.clipLength).map s.readClipFrame

/-- BORDER_L = DEC_HDR.HDR[0], 1 white (10_state.md R42, R57). -/
def borderL (s : State) : Bool := s.decHdr.getLsbD 0

/-- BORDER_R = DEC_HDR.HDR[1], 1 white (10_state.md R42, R57). -/
def borderR (s : State) : Bool := s.decHdr.getLsbD 1

/-- FRAME_OUT, the renderer's view of CACHE (10_state.md R57). -/
def frameOut (s : State) : List Byte := outFrame s.cfg.outConv (s.readFrame .cache)

end State

end Sys2Proof.Machine
end

