-- ==== Sys2Proof/Machine/Border.lean ====
section
/-!
DEFINITION. Input inversion, the border classifier and the look-ahead stabilizer (40_border.md): the
functions of R130 to R136 and the commands INVERT, CLASSIFY, STABILIZE (R138 to R140).
-/

namespace Sys2Proof.Machine

/-- Invert(fr) (R130). -/
def invertFrame (fr : List Byte) : List Byte := fr.map not8

/-- s(c), the bit of its byte that holds column `c` (R132). -/
def pixelBit (o : PixelOrder) (c : Nat) : Nat :=
  match o with
  | .msbFirst => 7 - c % 8
  | .lsbFirst => c % 8

/-- Pixel(fr, r, c) (R132). -/
def pixel (p : Params) (fr : List Byte) (r c : Nat) : Bool :=
  (fr.getD (r * p.rowBytes + c / 8) 0).getLsbD (pixelBit p.pixelOrder c)

/-- The number of rows whose pixel in column `c` is white (R133). -/
def columnWhite (p : Params) (fr : List Byte) (c : Nat) : Nat :=
  (List.range p.height).countP (fun r => pixel p fr r c)

/-- WhiteL(fr) (R133). -/
def whiteLeft (p : Params) (fr : List Byte) : Nat := columnWhite p fr 0

/-- WhiteR(fr) (R133). -/
def whiteRight (p : Params) (fr : List Byte) : Nat := columnWhite p fr (p.width - 1)

/-- A side is majority-white iff its white count is strictly more than half the rows (R134). -/
def majority (p : Params) (white : Nat) : Bool := decide (2 * white > p.height)

/-- The stabilizer after frame 0 (R135): `cur` is the current state and the list is the raw majorities
from some frame on. The look-ahead is the next `Wn - 1` raw majorities, fewer near the end (R136): where
none is left it confirms at once. -/
def stabilizeFrom (wn : Nat) : (cur : Bool) → List Bool → List Bool
  | _, [] => []
  | cur, m :: rest =>
    let now := if m ≠ cur ∧ (rest.take (wn - 1)).all (· == m) = true then m else cur
    now :: stabilizeFrom wn now rest

/-- Stabilize(m, Wn) (R135): frame 0 emits its own majority. -/
def stabilize (wn : Nat) : List Bool → List Bool
  | [] => []
  | m :: rest => m :: stabilizeFrom wn m rest

/-- INVERT (R138): FB_A complemented in place. -/
def execInvert (s : State) : Host.Outcome State Fault Refusal :=
  .next (((s.writeWindow .fbA (invertFrame (s.readFrame .fbA))).nextDraw).complete true)

/-- CLASSIFY (R139): WHITE and CLASS of FB_A. -/
def execClassify (s : State) : Host.Outcome State Fault Refusal :=
  let wl := whiteLeft s.cfg (s.readFrame .fbA)
  let wr := whiteRight s.cfg (s.readFrame .fbA)
  let t : State :=
    { s with
      whiteL := BitVec.ofNat 16 wl
      whiteR := BitVec.ofNat 16 wr
      majL := majority s.cfg wl
      majR := majority s.cfg wr }
  .next (t.nextDraw.complete true)

/-- The stabilized entries of a sequence of raw entries, each side on its own (R137, R140). -/
def stabilizeEntries (wn : Nat) (es : List Byte) : List Byte :=
  List.zipWith seqEntry (stabilize wn (seqLefts es)) (stabilize wn (seqRights es))

/-- STABILIZE (R140): SEQ_STB[0..F) from SEQ_MAJ[0..F). -/
def execStabilize (s : State) : Host.Outcome State Fault Refusal :=
  .next (((s.writeWindow .seqStb (stabilizeEntries s.stabWindow s.readMajorities)).nextDraw).complete true)

end Sys2Proof.Machine
end

