-- ==== Sys2Proof/Machine/Control.lean ====
section
/-!
DEFINITION. The control commands NOP and SOFT_RESET (46_control.md R300, R301), and the register part of
every reset (10_state.md R63).
-/

namespace Sys2Proof.Machine

/-- Every register of 10_state.md R32 and CACHE_VALID at their reset values, the decoder idle (10_state.md
R63); memories, WORK and the environment unchanged. -/
def State.resetRegisters (s : State) : State :=
  { s with
    cmd := 0
    status := Status.cleared
    cfgWindow := Config.windowReset
    clipFrames := 0
    encBytes := 0
    crcResult := 0
    crcExpect := 0
    decHdr := 0
    runLen := 0
    runPos := 0
    selHasPrev := false
    nzCount := 0
    majL := false
    majR := false
    whiteL := 0
    whiteR := 0
    hdrArg := 0
    decConsumed := 0
    cacheValid := false
    phase := .idle }

/-- NOP (46_control.md R300). -/
def execNop (s : State) : Host.Outcome State Fault Refusal :=
  .next (s.complete true)

/-- SOFT_RESET (46_control.md R301): the register reset, then OK <- 1. CMD reads 0 afterwards. -/
def execSoftReset (s : State) : Host.Outcome State Fault Refusal :=
  .next (s.resetRegisters.complete true)

end Sys2Proof.Machine
end

