-- ==== Sys2Proof/Machine/Crc.lean ====
section
/-!
DEFINITION. The CRC-16 generator and verifier (43_crc.md): the function of R210 and the commands CRC_GEN
and CRC_CHECK (R215, R216).
-/

namespace Sys2Proof.Machine

/-- One of the 8 shifts of a byte (R210): bit 15's carry out is discarded. -/
def crcShift (crc : Half) : Half :=
  if crc.getLsbD 15 then (crc <<< 1) ^^^ Config.crcPoly else crc <<< 1

/-- `n` shifts. -/
def crcShifts : (n : Nat) → Half → Half
  | 0, crc => crc
  | n + 1, crc => crcShifts n (crcShift crc)

/-- One byte (R210): XORed into the high byte, then 8 shifts. -/
def crcByte (crc : Half) (d : Byte) : Half := crcShifts 8 (crc ^^^ (d.setWidth 16 <<< 8))

/-- CRC16(d) (R210): seed 0xFFFF, no final XOR, no reflection. -/
def crc16 (d : List Byte) : Half := d.foldl crcByte Config.crcSeed

/-- CRC_GEN (R215): CRC_RESULT over FB_A. -/
def execCrcGen (s : State) : Host.Outcome State Fault Refusal :=
  .next (((s.setCrc (crc16 (s.readFrame .fbA))).nextDraw).complete true)

/-- CRC_CHECK (R216): CRC_RESULT over FB_C, CRC_MATCH against CRC_EXPECT. -/
def execCrcCheck (s : State) : Host.Outcome State Fault Refusal :=
  let c := crc16 (s.readFrame .fbC)
  let same := decide (c = s.crcExpect)
  let t := s.setCrc c
  let u : State := { t with status := { t.status with crcMatch := same } }
  .next (u.nextDraw.complete same)

end Sys2Proof.Machine
end

