-- ==== Sys2Proof/Machine/Rle.lean ====
section
/-!
DEFINITION. The RLE encoder and decoder (42_rle.md): the functions of R181, R183, R184 and the commands
RLE_ENC and RLE_DEC (R185, R186).
-/

namespace Sys2Proof.Machine

/-- The runs of a payload, once a run of `c` bytes `v` is open: greedy, a run capped at 255 (R181). -/
def runsFrom (v : Byte) (c : Nat) : List Byte → List (Nat × Byte)
  | [] => [(c, v)]
  | b :: rest =>
    if b = v ∧ c < Config.runMax then runsFrom v (c + 1) rest
    else (c, v) :: runsFrom b 1 rest

/-- The (count, value) pairs of a payload, left to right (R181). -/
def runs : List Byte → List (Nat × Byte)
  | [] => []
  | b :: rest => runsFrom b 1 rest

/-- A run-list serialised: count, value, count, value, ... (R180). -/
def serialiseRuns : List (Nat × Byte) → List Byte
  | [] => []
  | (c, v) :: rs => BitVec.ofNat 8 c :: v :: serialiseRuns rs

/-- RleEncode(p) (R181). -/
def rleEncode (p : List Byte) : List Byte := serialiseRuns (runs p)

/-- What a run of RleDecode answers (R183): the output or the failure kind. -/
inductive RleResult
  | ok (out : List Byte)
  | err (kind : FailKind)
deriving DecidableEq, Repr

/-- An answer of RleDecode with the number of source bytes it has read, those of a failing pair included
(R183, R186). -/
structure RleRead where
  result : RleResult
  used : Nat
deriving DecidableEq, Repr

/-- The answer once the pair in front of it, which appends `bs`, has been read. -/
def RleRead.after (bs : List Byte) (r : RleRead) : RleRead where
  result :=
    match r.result with
    | .ok out => .ok (bs ++ out)
    | .err k => .err k
  used := r.used + 2

/-- RleDecode (R183) over a byte source, where `need` bytes are still to be produced: `len(out) + c > N`
is `c > need`. Both bytes of a pair are read before its count is checked; at the first error nothing of
the output stays; the source is not read past the pair that completes the frame. -/
def rleDecode (zr : ZeroRun) : (need : Nat) → (source : List Byte) → RleRead
  | 0, _ => ⟨.ok [], 0⟩
  | _ + 1, [] => ⟨.err .streamTruncated, 0⟩
  | _ + 1, [_] => ⟨.err .streamTruncated, 1⟩
  | need + 1, c :: v :: rest =>
    if c.toNat = 0 then
      match zr with
      | .reject => ⟨.err .zeroRun, 2⟩
      | .accept => (rleDecode zr (need + 1) rest).after []
    else if c.toNat > need + 1 then ⟨.err .runOverflow, 2⟩
    else (rleDecode zr (need + 1 - c.toNat) rest).after (List.replicate c.toNat v)
termination_by structural _ source => source

/-- RLE_ENC (R185): RUNBUF[0..len) and RUN_LEN from FB_C. -/
def execRleEnc (s : State) : Host.Outcome State Fault Refusal :=
  let r := rleEncode (s.readFrame .fbC)
  let t := s.writeWindow .runbuf r
  let u : State := { t with runLen := BitVec.ofNat 32 r.length }
  .next (u.nextDraw.complete true)

/-- Deliver the answer of an RLE_DEC (R186): on success FB_C, on an error FB_C unchanged. -/
def State.rleDeliver (s : State) (r : RleResult) : State :=
  match r with
  | .ok out =>
    let t := s.writeWindow .fbC out
    let u : State := { t with status := { t.status with rleErr := none } }
    u.complete true
  | .err k =>
    let u : State := { s with status := { s.status with rleErr := some k } }
    u.complete false

/-- RLE_DEC (R186): RUN_POS always, then FB_C or RLE_ERR. -/
def execRleDec (s : State) : Host.Outcome State Fault Refusal :=
  let r := rleDecode s.cfg.zeroRun s.frameSize s.readRunList
  let t : State := { s with runPos := BitVec.ofNat 32 r.used }
  .next ((t.rleDeliver r.result).nextDraw)

end Sys2Proof.Machine
end

