-- ==== Sys2Proof/Machine/Selector.lean ====
section
/-!
DEFINITION. The delta-XOR and keyframe selector (41_select.md): the functions of R160 to R163 and the
commands SELECT and XOR_APPLY (R165, R166).
-/

namespace Sys2Proof.Machine

/-- Xor(a, b) (R160). -/
def xorFrame (a b : List Byte) : List Byte := List.zipWith xor8 a b

/-- NZ(x) (R161): the number of nonzero bytes. -/
def nonzeroCount (x : List Byte) : Nat := x.countP (fun b => decide (b ≠ 0))

/-- `4 * nz > 3 * N` on naturals (R162). -/
def aboveThreshold (p : Params) (nz : Nat) : Bool :=
  decide (Config.keyDen * nz > Config.keyNum * p.frameBytes)

/-- IsKey(cur, prev) (R162); `none` is an absent previous frame. -/
def isKey (p : Params) (cur : List Byte) : (prev : Option (List Byte)) → Bool
  | none => true
  | some prev => aboveThreshold p (nonzeroCount (xorFrame cur prev))

/-- Payload(cur, prev) (R163). -/
def payload (p : Params) (cur : List Byte) : (prev : Option (List Byte)) → List Byte
  | none => cur
  | some prev => if isKey p cur (some prev) then cur else xorFrame cur prev

/-- The nonzero count SELECT reports: 0 where there is no previous frame (R165). -/
def selectCount (cur : List Byte) : (prev : Option (List Byte)) → Nat
  | none => 0
  | some prev => nonzeroCount (xorFrame cur prev)

/-- The previous frame SELECT uses: FB_B if SEL.HAS_PREV = 1, else none (R165). -/
def State.selectPrev (s : State) : Option (List Byte) :=
  if s.selHasPrev then some (s.readFrame .fbB) else none

/-- SELECT (R165): FB_C, STATUS.KEY and NZ_COUNT. -/
def execSelect (s : State) : Host.Outcome State Fault Refusal :=
  let cur := s.readFrame .fbA
  let prev := s.selectPrev
  let t := s.writeWindow .fbC (payload s.cfg cur prev)
  let u : State :=
    { t with
      status := { t.status with key := isKey s.cfg cur prev }
      nzCount := BitVec.ofNat 32 (selectCount cur prev) }
  .next (u.nextDraw.complete true)

/-- XOR_APPLY (R166): FB_C xor FB_B, in place. -/
def execXorApply (s : State) : Host.Outcome State Fault Refusal :=
  .next (((s.writeWindow .fbC (xorFrame (s.readFrame .fbC) (s.readFrame .fbB))).nextDraw).complete true)

end Sys2Proof.Machine
end

