-- ==== Sys2Proof/Machine/Decoder.lean ====
section
/-!
DEFINITION. The decoder state machine (45_decoder.md): its phases (R261 to R268) as one function each,
the later phase first because each calls the next, and the commands DEC_FRAME and DEC_RESTART (R269, R273).
`start` is IN_POS at the command's start, `h` the header, `stored` the checksum of the trailer.
-/

namespace Sys2Proof.Machine

/-- The K bit of a header: 1 a keyframe, 0 a delta (30_encoding.md R103). -/
def isKeyHeader (h : Byte) : Bool := h.getLsbD 2

/-- Trailer assembly, `t0 | (t1 << 8)` (30_encoding.md R108). -/
def storedCrc (t0 t1 : Byte) : Half := t1 ++ t0

/-- Committed (R267). WORK holds no defined byte afterwards (10_state.md R59, log 6). -/
def State.decodeCommit (s : State) (h : Byte) (start : Nat) : State :=
  let t := s.writeWindow .cache s.work
  let u := t.render ⟨outFrame s.cfg.outConv s.work, h.getLsbD 0, h.getLsbD 1⟩
  { u with
    cacheValid := true
    decHdr := h
    work := []
    phase := .committed
    status := { u.status with
      produced := true
      ok := true
      illegal := false
      decErr := none
      failPhase := none
      truncAtBoundary := false }
    decConsumed := consumedWord (s.inPos - start) }

/-- VerifyingChecksum (R266). -/
def State.verifyChecksum (s : State) (h : Byte) (stored : Half) (start : Nat) : State :=
  let s := s.enterPhase (.working .verifyingChecksum)
  let c := crc16 s.work
  let t := s.setCrc c
  if c = stored then t.decodeCommit h start else t.decodeFail .checksumMismatch .verifyingChecksum start

/-- ApplyingDelta (R265): passed through, doing nothing, when the header's K bit is 1 (R261). -/
def State.applyDelta (s : State) (h : Byte) (stored : Half) (start : Nat) : State :=
  let s := s.enterPhase (.working .applyingDelta)
  if isKeyHeader h then s.verifyChecksum h stored start
  else if s.cacheValid then
    (s.setWork (xorFrame s.work (s.readFrame .cache))).verifyChecksum h stored start
  else s.decodeFail .deltaWithoutHistory .applyingDelta start

/-- DecodingRuns, trailer (R264). -/
def State.readTrailer (s : State) (h : Byte) (start : Nat) : State :=
  match s.inRead with
  | (none, t) => t.decodeFail .streamTruncated .decodingRuns start
  | (some t0, t) =>
    match t.inRead with
    | (none, u) => u.decodeFail .streamTruncated .decodingRuns start
    | (some t1, u) => u.applyDelta h (storedCrc t0 t1) start

/-- DecodingRuns, run-list (R263): RleDecode over the input stream, each byte it reads consumed. -/
def State.decodeRuns (s : State) (h : Byte) (start : Nat) : State :=
  let s := s.enterPhase (.working .decodingRuns)
  let r := rleDecode s.cfg.zeroRun s.frameSize s.unread
  let t := s.advanceInput r.used
  match r.result with
  | .err k => t.decodeFail k .decodingRuns start
  | .ok out => (t.setWork out).readTrailer h start

/-- AwaitingHeader (R262), where every DEC_FRAME starts. -/
def State.awaitHeader (s : State) : State :=
  let start := s.inPos
  let s := s.enterPhase (.working .awaitingHeader)
  match s.inRead with
  | (none, t) => t.decodeFail .streamTruncated .awaitingHeader start
  | (some h, t) => t.decodeRuns h start

/-- DEC_FRAME (R269). -/
def execDecFrame (s : State) : Host.Outcome State Fault Refusal :=
  .next (s.awaitHeader.nextDraw)

/-- DEC_RESTART (R273): input to its first byte, the cache invalid, the decode fields cleared. -/
def execDecRestart (s : State) : Host.Outcome State Fault Refusal :=
  let t := s.inSeek0
  let u : State :=
    { t with
      cacheValid := false
      status := { t.status with
        produced := false
        decErr := none
        failPhase := none
        truncAtBoundary := false }
      decConsumed := 0 }
  .next (u.complete true)

end Sys2Proof.Machine
end

