-- ==== Sys2Proof/Machine/Framer.lean ====
section
/-!
DEFINITION. The framer and the whole-clip encoder (44_framer.md): the functions of R230, R231, R233 and
the commands FRAME_EMIT and ENC_CLIP (R232, R234).
-/

namespace Sys2Proof.Machine

/-- Header(f) (R230): left border in bit 0, right border in bit 1, keyframe in bit 2, bits 7:3 zero. -/
def headerByte (l r key : Bool) : Byte :=
  (0 : BitVec 5) ++ BitVec.ofBool key ++ BitVec.ofBool r ++ BitVec.ofBool l

/-- The trailer bytes of a checksum: `crc[7:0]` then `crc[15:8]` (30_encoding.md R108, 43_crc.md R212). -/
def crcBytes (c : Half) : List Byte := [c.extractLsb' 0 8, c.extractLsb' 8 8]

/-- Record(h, r, c) (R231). -/
def recordBytes (h : Byte) (r : List Byte) (c : Half) : List Byte := h :: (r ++ crcBytes c)

/-- FRAME_EMIT (R232): one record of HDR_ARG, RUNBUF[0..RUN_LEN) and CRC_RESULT, unchecked. -/
def execFrameEmit (s : State) : Host.Outcome State Fault Refusal :=
  let t := s.outWrite (recordBytes s.hdrArg s.readRunList s.crcResult)
  let u : State := { t with encBytes := s.encBytes + s.runLen + 3 }
  .next (u.nextDraw.complete true)

/-- The record of one inverted frame, given the previous one and the stabilized border states (R233). -/
def encodeFrame (p : Params) (prev : Option (List Byte)) (cur : List Byte) (l r : Bool) : List Byte :=
  recordBytes (headerByte l r (isKey p cur prev)) (rleEncode (payload p cur prev)) (crc16 cur)

/-- The loop of Encode (R233) over inverted frames and their stabilized states; the previous
reconstructed frame of a frame is the inverted frame before it (41_select.md R164). -/
def encodeRecords (p : Params) :
    (prev : Option (List Byte)) → (invs : List (List Byte)) → (sL sR : List Bool) → List Byte
  | prev, cur :: invs, l :: sL, r :: sR => encodeFrame p prev cur l r ++ encodeRecords p (some cur) invs sL sR
  | _, [], _, _ => []
  | _, _ :: _, [], _ => []
  | _, _ :: _, _ :: _, [] => []

/-- What Encode returns (R233): the stream and the four border sequences. -/
structure Encoded where
  out : List Byte
  mL : List Bool
  mR : List Bool
  sL : List Bool
  sR : List Bool
deriving DecidableEq, Repr

/-- Encode(clip, Wn) (R233). The inverted clip and the previous frame are local to the call (10_state.md
R62, log 12). -/
def encodeClip (p : Params) (clip : List (List Byte)) (wn : Nat) : Encoded :=
  let invs := clip.map invertFrame
  let mL := invs.map (fun fr => majority p (whiteLeft p fr))
  let mR := invs.map (fun fr => majority p (whiteRight p fr))
  let sL := stabilize wn mL
  let sR := stabilize wn mR
  { out := encodeRecords p none invs sL sR, mL := mL, mR := mR, sL := sL, sR := sR }

/-- ENC_CLIP (R234): the stream to the sink, SEQ_MAJ, SEQ_STB and ENC_BYTES. -/
def execEncClip (s : State) : Host.Outcome State Fault Refusal :=
  let e := encodeClip s.cfg s.readClip s.stabWindow
  let t := s.outWrite e.out
  let u := t.writeWindow .seqMaj (List.zipWith seqEntry e.mL e.mR)
  let v := u.writeWindow .seqStb (List.zipWith seqEntry e.sL e.sR)
  let w : State := { v with encBytes := BitVec.ofNat 32 e.out.length }
  .next (w.nextDraw.complete true)

end Sys2Proof.Machine
end

