-- ==== Sys2Proof/Machine/Dispatch.lean ====
section
/-!
DEFINITION. The dispatch of the 15 commands (46_control.md R303): one arm per constructor of Instr.
-/

namespace Sys2Proof.Machine

def exec (i : Instr) (s : State) : Host.Outcome State Fault Refusal :=
  match i with
  | .nop => Sys2Proof.Machine.execNop s
  | .softReset => Sys2Proof.Machine.execSoftReset s
  | .invert => Sys2Proof.Machine.execInvert s
  | .classify => Sys2Proof.Machine.execClassify s
  | .stabilize => Sys2Proof.Machine.execStabilize s
  | .select => Sys2Proof.Machine.execSelect s
  | .xorApply => Sys2Proof.Machine.execXorApply s
  | .rleEnc => Sys2Proof.Machine.execRleEnc s
  | .rleDec => Sys2Proof.Machine.execRleDec s
  | .crcGen => Sys2Proof.Machine.execCrcGen s
  | .crcCheck => Sys2Proof.Machine.execCrcCheck s
  | .frameEmit => Sys2Proof.Machine.execFrameEmit s
  | .encClip => Sys2Proof.Machine.execEncClip s
  | .decFrame => Sys2Proof.Machine.execDecFrame s
  | .decRestart => Sys2Proof.Machine.execDecRestart s

end Sys2Proof.Machine
end

