-- ==== Sys2Proof/Machine/Registers.lean ====
section
/-!
DEFINITION. The register window as the host reads and writes it (10_state.md R32 to R51): every read and
write of a register by the host goes through these two accessors.
-/

namespace Sys2Proof.Machine

/-- The byte offset of a register (R32). -/
def Reg.offset : Reg → Nat
  | .cmd => 0x00
  | .status => 0x04
  | .cfgWindow => 0x08
  | .geom => 0x0C
  | .frameBytes => 0x10
  | .clipFrames => 0x14
  | .encBytes => 0x18
  | .crcResult => 0x1C
  | .crcExpect => 0x20
  | .decHdr => 0x24
  | .runLen => 0x28
  | .runPos => 0x2C
  | .sel => 0x30
  | .nzCount => 0x34
  | .cls => 0x38
  | .white => 0x3C
  | .hdrArg => 0x40
  | .decConsumed => 0x44

/-- Every register of the map (R32). -/
def Reg.all : List Reg :=
  [.cmd, .status, .cfgWindow, .geom, .frameBytes, .clipFrames, .encBytes, .crcResult, .crcExpect,
   .decHdr, .runLen, .runPos, .sel, .nzCount, .cls, .white, .hdrArg, .decConsumed]

/-- The register at a byte offset; none at a reserved one (R51). -/
def Reg.at? (off : Nat) : Option Reg := Reg.all.find? (fun r => decide (r.offset = off))

namespace State

/-- A register as the host reads it, reserved bits 0 (R33 to R50). -/
def readReg (s : State) : Reg → Word
  | .cmd => s.cmd
  | .status => s.statusWord
  | .cfgWindow => s.cfgWindow.setWidth 32
  | .geom => BitVec.ofNat 16 s.cfg.height ++ BitVec.ofNat 16 s.cfg.width
  | .frameBytes => BitVec.ofNat 32 s.cfg.frameBytes
  | .clipFrames => s.clipFrames
  | .encBytes => s.encBytes
  | .crcResult => s.crcResult.setWidth 32
  | .crcExpect => s.crcExpect.setWidth 32
  | .decHdr => s.decHdr.setWidth 32
  | .runLen => s.runLen
  | .runPos => s.runPos
  | .sel => (BitVec.ofBool s.selHasPrev).setWidth 32
  | .nzCount => s.nzCount
  | .cls => (BitVec.ofBool s.majR ++ BitVec.ofBool s.majL).setWidth 32
  | .white => s.whiteR ++ s.whiteL
  | .hdrArg => s.hdrArg.setWidth 32
  | .decConsumed => s.decConsumed

/-- A host write of `v` to a register (R33 to R50): the value stored as the register's WARL rule says, a
read-only register unchanged. For CMD this is the store alone; the command follows in `hostCommand`. -/
def writeReg (s : State) (r : Reg) (v : Word) : State :=
  match r with
  | .cmd => { s with cmd := v }
  | .cfgWindow => { s with cfgWindow := if v.setWidth 16 = 0 then 1 else v.setWidth 16 }
  | .clipFrames => { s with clipFrames := BitVec.ofNat 32 (min v.toNat s.cfg.maxFrames) }
  | .crcExpect => { s with crcExpect := v.setWidth 16 }
  | .runLen => { s with runLen := BitVec.ofNat 32 (min v.toNat (2 * s.cfg.frameBytes)) }
  | .sel => { s with selHasPrev := v.getLsbD 0 }
  | .hdrArg => { s with hdrArg := v.setWidth 8 }
  | .status => s
  | .geom => s
  | .frameBytes => s
  | .encBytes => s
  | .crcResult => s
  | .decHdr => s
  | .runPos => s
  | .nzCount => s
  | .cls => s
  | .white => s
  | .decConsumed => s

end State

end Sys2Proof.Machine
end

