-- ==== Sys2Proof/Machine/HostBus.lean ====
section
/-!
DEFINITION. The host bus (20_memory.md R70 to R77): which register or window an access reaches, what it
reads or writes, and the command a CMD write starts (46_control.md R302, R303).
-/

namespace Sys2Proof.Machine

/-- n, the bytes of an access (20_memory.md R72). -/
def Width.bytes : Width → Nat
  | .one => 1
  | .two => 2
  | .four => 4

/-- The end of the register window: block addresses 0x00 to 0xFF (20_memory.md R70). -/
def registerWindowEnd : Nat := 0x100

/-- Every memory window (20_memory.md R70). -/
def Window.all : List Window :=
  [.fbA, .fbB, .fbC, .runbuf, .cache, .frameOut, .seqMaj, .seqStb, .clipMem]

/-- The access lies wholly inside the window's used size (20_memory.md R72). -/
def Window.holds (p : Params) (a n : Nat) (w : Window) : Bool :=
  decide (w.base ≤ a) && decide (a + n ≤ w.base + w.size p)

/-- The register an access reaches: the register window takes only n = 4 with the address a multiple of 4
(20_memory.md R72); none at a reserved offset (10_state.md R51). -/
def regAccess? (a : Nat) (n : Width) : Option Reg :=
  if a < registerWindowEnd ∧ n = .four ∧ a % 4 = 0 then Reg.at? a else none

/-- The memory window an access reaches: naturally aligned and wholly inside one window's used size; none
otherwise (20_memory.md R71, R72). -/
def windowAccess? (p : Params) (a : Nat) (n : Width) : Option Window :=
  if a % n.bytes = 0 then Window.all.find? (Window.holds p a n.bytes) else none

namespace State

/-- The byte the host reads at an offset of a window: FRAME_OUT is the renderer's view of CACHE (10_state.md
R57); bits [7:2] of a SEQ_MAJ or SEQ_STB entry read 0 (10_state.md R60, log 13). -/
def hostByte (s : State) (w : Window) (i : Nat) : Byte :=
  match w with
  | .frameOut =>
    match s.cfg.outConv with
    | .raw => not8 (s.readByte (Window.cache.base + i))
    | .stream => s.readByte (Window.cache.base + i)
  | .seqMaj => seqMask (s.readByte (Window.seqMaj.base + i))
  | .seqStb => seqMask (s.readByte (Window.seqStb.base + i))
  | .fbA => s.readByte (Window.fbA.base + i)
  | .fbB => s.readByte (Window.fbB.base + i)
  | .fbC => s.readByte (Window.fbC.base + i)
  | .runbuf => s.readByte (Window.runbuf.base + i)
  | .cache => s.readByte (Window.cache.base + i)
  | .clipMem => s.readByte (Window.clipMem.base + i)

/-- The byte the window stores for a host write (10_state.md R60: bits [7:2] of an entry ignore writes). -/
def storedByte (w : Window) (b : Byte) : Byte :=
  match w with
  | .seqMaj => seqMask b
  | .seqStb => seqMask b
  | .fbA => b
  | .fbB => b
  | .fbC => b
  | .runbuf => b
  | .cache => b
  | .frameOut => b
  | .clipMem => b

/-- MemRead(addr, n) (20_memory.md R71 to R73). -/
def memRead (s : State) (addr : Word) (n : Width) : Word :=
  match regAccess? addr.toNat n with
  | some r => s.readReg r
  | none =>
    match windowAccess? s.cfg addr.toNat n with
    | some w =>
      BitVec.ofNat 32
        (leValue ((List.range n.bytes).map (fun k => s.hostByte w (addr.toNat - w.base + k))))
    | none => 0

/-- MemWrite(addr, n, v) (20_memory.md R71 to R73, R75), for CMD the store alone. -/
def memWrite (s : State) (addr : Word) (n : Width) (v : Word) : State :=
  match regAccess? addr.toNat n with
  | some r => s.writeReg r v
  | none =>
    match windowAccess? s.cfg addr.toNat n with
    | some w =>
      if w.hostWritable then s.writeBytes addr.toNat ((leBytes n.bytes v.toNat).map (storedByte w)) else s
    | none => s

/-- The command a word encodes, run once CMD holds the word (46_control.md R302, R303). -/
def hostCommand (s : State) (w : Word) : Host.Outcome State Fault Refusal :=
  match decode w with
  | .legal i => exec i s
  | .illegal _ => .next s.illegalCommand

/-- Power-on reset (70_reset_and_hazards.md R350): the register reset, every memory and WORK unspecified,
the environment unchanged (R353). -/
def powerOn (s : State) : State := { s.resetRegisters with mem := [], work := [] }

/-- One event of the total order (20_memory.md R77), served whole (R76). -/
def serve (s : State) : HostOp → Host.Outcome State Fault Refusal
  | .read addr n =>
    let t : State := { s with hostReads := s.hostReads ++ [s.memRead addr n] }
    .next t.nextDraw
  | .write addr n v =>
    if regAccess? addr.toNat n = some .cmd then (s.memWrite addr n v).hostCommand v
    else .next (s.memWrite addr n v)
  | .setInput bytes pos => .next { s with inBytes := bytes, inPos := min pos bytes.length }
  | .setSink bytes => .next { s with outBytes := bytes }
  | .powerOn => .next s.powerOn

end State

end Sys2Proof.Machine
end

