-- ==== Sys2Proof/Machine/Step.lean ====
section
/-!
DEFINITION. One step of the machine: it serves the oldest pending host event (00_scope.md R7, 20_memory.md
R77, log 2). With none pending the core is idle and holds its state (60_exceptions.md R334).
-/

namespace Sys2Proof.Machine

/-- One step. -/
def step (s : State) : Host.Outcome State Fault Refusal :=
  match s.hostQueue with
  | [] => .next s
  | op :: rest => State.serve { s with hostQueue := rest } op

/-- The state in which the next step is the host's write of that command word to CMD: commands are not
fetched, they "arrive one at a time from the host through CMD" (10_state.md R31). The pending events stay
behind it. -/
def State.withFetchWord (s : State) (nbits w : Nat) : State :=
  { s with hostQueue := .write 0 .four (BitVec.ofNat 32 (w % 2 ^ nbits)) :: s.hostQueue }

end Sys2Proof.Machine
end

