-- ==== Sys2Proof/Machine/HostPrograms.lean ====
section
/-!
DEFINITION. Host programs (30_encoding.md R112, R113): the host syntax as lists of bus accesses, and the
pseudo-instructions with their expansions.
-/

namespace Sys2Proof.Machine

/-- `wr REG, imm` (R112). -/
def hostWr (r : Reg) (imm : Word) : HostOp := .write (BitVec.ofNat 32 r.offset) .four imm

/-- `rd REG` (R112). -/
def hostRd (r : Reg) : HostOp := .read (BitVec.ofNat 32 r.offset) .four

/-- `wb BUF[off], b0, b1, ...` (R112): one byte write each. -/
def hostWb (w : Window) : (off : Nat) → List Byte → List HostOp
  | _, [] => []
  | off, b :: bs => .write (BitVec.ofNat 32 (w.base + off)) .one (b.setWidth 32) :: hostWb w (off + 1) bs

/-- `rb BUF[off], n` (R112): n byte reads. -/
def hostRb (w : Window) (off n : Nat) : List HostOp :=
  (List.range n).map (fun k => .read (BitVec.ofNat 32 (w.base + off + k)) .one)

/-- `cmd MNEMONIC` (R112). -/
def hostCmd (i : Instr) : HostOp := hostWr .cmd (encode i)

/-- `tick` (R113). -/
def hostTick : List HostOp := [hostCmd .decFrame]

/-- `loop` (R113). -/
def hostLoop : List HostOp := [hostCmd .decRestart]

/-- `encode_frame p, h` (R113). -/
def hostEncodeFrame (p h : Word) : List HostOp :=
  [hostCmd .invert, hostCmd .classify, hostCmd .crcGen, hostWr .sel p, hostCmd .select,
   hostCmd .rleEnc, hostWr .hdrArg h, hostCmd .frameEmit]

/-- `verify_frame d, c` (R113): XOR_APPLY only for a delta. -/
def hostVerifyFrame (d : Bool) (c : Word) : List HostOp :=
  [hostCmd .rleDec] ++ (if d then [hostCmd .xorApply] else [])
    ++ [hostWr .crcExpect c, hostCmd .crcCheck]

end Sys2Proof.Machine
end

