-- ==== Sys2Proof/Safety.lean ====
section
/-!
DEFINITION. What a good state of the core is, in the terms the statements use: the invariant that reset
establishes and every step keeps, and the vocabulary for runs of commands. There is no error state to
avoid (60_exceptions.md R320); what a safe run means here is that every state of it is good.
-/

namespace Sys2Proof.Machine

/-- The windows that store bytes; FRAME_OUT is a view of CACHE (10_state.md R57). -/
def storedWindows : List Window := [.fbA, .fbB, .fbC, .runbuf, .cache, .seqMaj, .seqStb, .clipMem]

/-- The failures a DEC_FRAME may report: a kind with the phase it is raised in (60_exceptions.md R321). -/
def legalDecodeFailure : FailKind → WorkPhase → Bool
  | .streamTruncated, .awaitingHeader => true
  | .streamTruncated, .decodingRuns => true
  | .runOverflow, .decodingRuns => true
  | .zeroRun, .decodingRuns => true
  | .deltaWithoutHistory, .applyingDelta => true
  | .checksumMismatch, .verifyingChecksum => true
  | _, _ => false

/-- The failures an RLE_DEC may report (60_exceptions.md R321: "An RLE_DEC never reports 3 or 4"). -/
def legalRleFailure : FailKind → Bool
  | .streamTruncated => true
  | .runOverflow => true
  | .zeroRun => true
  | .checksumMismatch => false
  | .deltaWithoutHistory => false

/-- The memory of a good state: canonical, no cell outside the used bytes of a window that stores
(20_memory.md R70, R71), two-bit sequence entries (10_state.md R60), and every CACHE byte defined while the
cache is valid (10_state.md R64). -/
structure State.MemoryGood (s : State) : Prop where
  canonical : s.mem.wf
  mapped : ∀ c ∈ s.mem, ∃ w ∈ storedWindows, w.holds s.cfg c.1 1 = true
  entries : ∀ c ∈ s.mem, ∀ w ∈ [Window.seqMaj, Window.seqStb], w.holds s.cfg c.1 1 = true → c.2.toNat < 4
  cacheDefined : s.cacheValid = true → ∀ i, i < s.cfg.frameBytes → ∃ b, s.byteAt (Window.cache.base + i) = some b

/-- The registers of a good state: every one within the range its rule gives (10_state.md R35, R38, R43,
R44, R46, R48), the input position inside the stream (R55). -/
structure State.RegistersGood (s : State) : Prop where
  windowPositive : 1 ≤ s.cfgWindow.toNat
  clipFits : s.clipFrames.toNat ≤ s.cfg.maxFrames
  runLenFits : s.runLen.toNat ≤ 2 * s.cfg.frameBytes
  runPosFits : s.runPos.toNat ≤ 2 * s.cfg.frameBytes
  countFits : s.nzCount.toNat ≤ s.cfg.frameBytes
  whiteLFits : s.whiteL.toNat ≤ s.cfg.height
  whiteRFits : s.whiteR.toNat ≤ s.cfg.height
  inputInside : s.inPos ≤ s.inBytes.length

/-- STATUS of a good state tells one story (10_state.md R34, 60_exceptions.md R321, R323), and between
commands the decoder is in no working phase and WORK is not in use (10_state.md R59). -/
structure State.StatusGood (s : State) : Prop where
  producedValid : s.status.produced = true → s.cacheValid = true ∧ s.status.decErr = none
  errWithPhase : s.status.decErr = none ↔ s.status.failPhase = none
  errLegal : ∀ k p, s.status.decErr = some k → s.status.failPhase = some p → legalDecodeFailure k p = true
  boundary : s.status.truncAtBoundary = true ↔
    s.status.decErr = some .streamTruncated ∧ s.status.failPhase = some .awaitingHeader
  rleLegal : ∀ k, s.status.rleErr = some k → legalRleFailure k = true
  okLegal : s.status.ok = true → s.status.illegal = false
  noWork : s.work = []
  betweenCommands : ∀ p, s.phase ≠ .working p

/-- A good state of the core: legal parameters (00_scope.md R6), good memory, registers and status. -/
structure State.Good (s : State) : Prop where
  parameters : s.cfg.wf = true
  memory : s.MemoryGood
  registers : s.RegistersGood
  status : s.StatusGood

/-- The expansion of a run-list, `[v0]*c0 ++ [v1]*c1 ++ ...` (42_rle.md R180). -/
def expandRuns : List (Nat × Byte) → List Byte
  | [] => []
  | (c, v) :: rs => List.replicate c v ++ expandRuns rs

/-- The pairs of a run-list have counts 1 to 255 (30_encoding.md R107). -/
def legalRuns (rs : List (Nat × Byte)) : Prop := ∀ r ∈ rs, 1 ≤ r.1 ∧ r.1 ≤ 255

/-- The sum of a run-list's counts (42_rle.md R180). -/
def runTotal : List (Nat × Byte) → Nat
  | [] => 0
  | (c, _) :: rs => c + runTotal rs

/-- In a canonical run-list two adjacent pairs have different values unless the first has count 255
(42_rle.md R182). -/
def canonicalRuns : List (Nat × Byte) → Prop
  | [] => True
  | [_] => True
  | a :: b :: rs => (a.2 = b.2 → a.1 = 255) ∧ canonicalRuns (b :: rs)

/-- The bytes of a state from a base address on are `bs`. -/
def State.HoldsBytes (t : State) (base : Nat) (bs : List Byte) : Prop :=
  ∀ i (h : i < bs.length), t.byteAt (base + i) = some bs[i]

/-- Every byte of memory outside the `len` bytes from `base` on is unchanged from `s` to `t`: its value,
and whether it has one. -/
def State.SameOutside (s t : State) (base len : Nat) : Prop :=
  ∀ a, ¬ (base ≤ a ∧ a < base + len) → t.byteAt a = s.byteAt a

/-- The flags of a legal command that completes with `ok`, every other STATUS field unchanged
(46_control.md R303). -/
def Status.completed (st : Status) (ok : Bool) : Status := { st with ok := ok, illegal := false }

/-- `t` is the state after a DEC_FRAME from `s` that fails with this kind in this phase after consuming
`used` bytes (45_decoder.md R268), CRC_RESULT being `crc`, DEC_CONSUMED `used` where it fits (log 8): nothing of `s` changes but what is named here,
memory least of all. (`draws` is the model's own counter of free values; of WORK, which is discarded, nothing
is said.) -/
def State.FailsAs (s t : State) (kind : FailKind) (phase : WorkPhase) (used : Nat) (crc : Half) : Prop :=
  t = { s with
    inPos := s.inPos + used
    crcResult := crc
    cacheValid := match s.cfg.failPolicy with
      | .invalidate => false
      | .keep => s.cacheValid
    status := { s.status with
      produced := false
      ok := false
      illegal := false
      decErr := some kind
      failPhase := some phase
      truncAtBoundary := decide (kind = .streamTruncated ∧ phase = .awaitingHeader) }
    decConsumed := t.decConsumed
    work := t.work
    phase := .failed
    draws := t.draws } ∧
  (used < 2 ^ 32 → t.decConsumed.toNat = used)

/-- `t` is the state after a DEC_FRAME from `s` that commits the frame `w` under header `h` after
consuming `used` bytes (45_decoder.md R267), DEC_CONSUMED `used` where it fits (log 8): CACHE holds `w`, one render event is emitted, and nothing
else changes but what is named here (of WORK nothing is said, 10_state.md R59). -/
def State.CommitsAs (s t : State) (h : Byte) (w : List Byte) (used : Nat) : Prop :=
  t = { s with
    inPos := s.inPos + used
    crcResult := crc16 w
    cacheValid := true
    decHdr := h
    status := { s.status with
      produced := true
      ok := true
      illegal := false
      decErr := none
      failPhase := none
      truncAtBoundary := false }
    renderEvents := s.renderEvents ++
      [{ frame := match s.cfg.outConv with
          | .raw => w.map not8
          | .stream => w
         borderL := h.getLsbD 0
         borderR := h.getLsbD 1 }]
    mem := t.mem
    decConsumed := t.decConsumed
    work := t.work
    phase := .committed
    draws := t.draws } ∧
  (used < 2 ^ 32 → t.decConsumed.toNat = used) ∧
  t.HoldsBytes Window.cache.base w ∧ s.SameOutside t Window.cache.base w.length

/-- Commands executed one after the other (46_control.md R304), the first fault or refusal ending the run. -/
def execAll : List Instr → State → Host.Outcome State Fault Refusal
  | [], s => .next s
  | i :: is, s =>
    match exec i s with
    | .next t => execAll is t
    | .fault r => .fault r
    | .refused r => .refused r

end Sys2Proof.Machine
end

