-- ==== Sys2Proof/Certificates/Slice0/Obligations.lean ====
section
/-!
DEFINITION. The statements for the provers, in the order of the spec's files. Where a statement speaks of
`s.readByte a` it means the byte a command reads there: the byte written, or, where nothing has been
written since power-on, a free value (10_state.md R64); so it holds whatever that value is. `draws` is the
model's own counter of free values: no statement says anything about it.
-/

open Sys2Proof Sys2Proof.Machine

/-! ### Encodings and dispatch -/

/-- 30_encoding.md R100, R102: "A word is a legal command iff ARG_RSVD = 0 and OPCODE is a row of rule
R101; otherwise it is illegal", for all 2^32 words, with the reason of each rejection, and the encoder is
the decoder's inverse. -/
def Obligations.CommandWordsDecodeExactly : Prop :=
  (∀ (w : Word) (i : Instr), decode w = .legal i ↔ argField w = 0 ∧ opcodeField w = opcode i) ∧
  (∀ (w : Word) (i : Instr), decode w = .legal i ↔ w = encode i) ∧
  (∀ w : Word, argField w ≠ 0 → decode w = .illegal .argReserved) ∧
  (∀ w : Word, argField w = 0 → (∀ i, opcodeField w ≠ opcode i) → decode w = .illegal .opcodeReserved)

/-- 30_encoding.md R101, R102, words written out from the opcode map: one of each unit, and reserved
words. -/
def Obligations.SampleWordsDecode : Prop :=
  decode 0x00000000 = .legal .nop ∧ decode 0x00000001 = .legal .softReset ∧
  decode 0x00000011 = .legal .classify ∧ decode 0x00000020 = .legal .select ∧
  decode 0x00000031 = .legal .rleDec ∧ decode 0x00000041 = .legal .crcCheck ∧
  decode 0x00000050 = .legal .frameEmit ∧ decode 0x00000061 = .legal .decRestart ∧
  decode 0x00000160 = .illegal .argReserved ∧ decode 0x00000062 = .illegal .opcodeReserved

/-- 10_state.md R33: "A host write of value v stores v in CMD and then executes the command v encodes, as
one atomic step". The step adds to exec only the store to CMD and that the served event leaves the queue. -/
def Obligations.StepExecutesCommandWrite : Prop :=
  ∀ (s : State) (rest : List HostOp) (w : Word) (i : Instr),
    s.hostQueue = .write 0 .four w :: rest → decode w = .legal i →
    step s = exec i { s with hostQueue := rest, cmd := w }

/-- The state `withFetchWord` makes is the one whose next step is that command (log 2: the model's own
convention for how a command reaches the core). -/
def Obligations.FetchWordStepsCommand : Prop :=
  ∀ (s : State) (i : Instr),
    step (s.withFetchWord 32 (encode i).toNat) = exec i { s with cmd := encode i } ∧
    decodeTableWord 32 (encode i).toNat = some i

/-- 46_control.md R302: an illegal word sets ILLEGAL, clears OK, stays in CMD, and changes nothing else;
the core does not halt: the next CMD write is decoded normally. -/
def Obligations.IllegalWordOnlySetsIllegal : Prop :=
  ∀ (s : State) (rest : List HostOp) (w : Word),
    s.hostQueue = .write 0 .four w :: rest → (∀ i, w ≠ encode i) →
    ∃ t, step s = .next t ∧
      t = { s with
        hostQueue := rest
        cmd := w
        status := { s.status with illegal := true, ok := false } } ∧
      t.readReg .cmd = w ∧
      ∀ (i : Instr) (more : List HostOp), rest = hostCmd i :: more →
        step t = exec i { t with hostQueue := more, cmd := encode i }

/-- 60_exceptions.md R320, R324: no host event makes the core trap or halt: every step, in every state, goes
on to a next state; and the parameters, which are constants of the machine (00_scope.md R6), stay. -/
def Obligations.EveryStepContinues : Prop :=
  ∀ s : State, ∃ t, step s = .next t ∧ t.cfg = s.cfg

/-- 46_control.md R303: a CMD write of a legal word stores it and executes the command, which clears ILLEGAL
and sets OK as listed; the STATUS fields its rule does not name keep their values (CACHE_VALID is the cache's
own bit, 10_state.md R34). -/
def Obligations.CommandsWriteOnlyTheirStatusFields : Prop :=
  ∀ (i : Instr) (s : State), ∃ t, step { s with hostQueue := hostCmd i :: s.hostQueue } = .next t ∧
    exec i { s with cmd := encode i } = .next t ∧
    t.status.illegal = false ∧
    t.status.ok = (match i with
      | .rleDec => t.status.rleErr.isNone
      | .crcCheck => t.status.crcMatch
      | .decFrame => t.status.produced
      | _ => true) ∧
    (i ≠ .select → i ≠ .softReset → t.status.key = s.status.key) ∧
    (i ≠ .crcCheck → i ≠ .softReset → t.status.crcMatch = s.status.crcMatch) ∧
    (i ≠ .rleDec → i ≠ .softReset → t.status.rleErr = s.status.rleErr) ∧
    (i ≠ .decFrame → i ≠ .decRestart → i ≠ .softReset →
      t.status.produced = s.status.produced ∧ t.status.decErr = s.status.decErr ∧
      t.status.failPhase = s.status.failPhase ∧ t.status.truncAtBoundary = s.status.truncAtBoundary ∧
      t.cacheValid = s.cacheValid) ∧
    (i ≠ .softReset → t.cmd = encode i) ∧ (i = .softReset → t.cmd = 0)

/-! ### Control commands -/

/-- 46_control.md R300: NOP sets OK, clears ILLEGAL, and changes nothing else; its word is the value CMD
holds after reset. -/
def Obligations.NopOnlyCompletes : Prop :=
  encode .nop = 0 ∧ State.reset.cmd = encode .nop ∧
  ∀ s : State, exec .nop s = .next { s with status := { s.status with ok := true, illegal := false } }

/-- 46_control.md R301: every register of the map reads its reset value (STATUS then OK), CACHE_VALID is 0;
the memories, WORK, the input position and the rest of the environment are unchanged. -/
def Obligations.SoftResetRestoresRegisters : Prop :=
  encode .softReset = 0x00000001 ∧ ∀ s : State, ∃ t, exec .softReset s = .next t ∧
    (∀ r : Reg, t.readReg r = match r with
      | .status => 0x00000001
      | .cfgWindow => 0x0000000F
      | .geom => s.readReg .geom
      | .frameBytes => s.readReg .frameBytes
      | _ => 0) ∧
    t.cacheValid = false ∧ t.phase = .idle ∧
    t.cfg = s.cfg ∧ t.mem = s.mem ∧ t.work = s.work ∧ t.inBytes = s.inBytes ∧ t.inPos = s.inPos ∧
    t.outBytes = s.outBytes ∧ t.renderEvents = s.renderEvents ∧ t.hostQueue = s.hostQueue ∧
    t.hostReads = s.hostReads ∧ t.draws = s.draws

/-! ### Reset and the register map -/

/-- 10_state.md R63 and R32, 20_memory.md R70, with the two maps written out: the offset of every register,
the base and used size of every window; what the host reads at every register's offset after power-on, for
every legal parameter value; the cache is invalid, the decoder idle, no memory byte defined. -/
def Obligations.PowerOnRegisterValues : Prop :=
  (∀ r : Reg, r.offset = match r with
    | .cmd => 0x00
    | .status => 0x04
    | .cfgWindow => 0x08
    | .geom => 0x0C
    | .frameBytes => 0x10
    | .clipFrames => 0x14
    | .encBytes => 0x18
    | .crcResult => 0x1C
    | .crcExpect => 0x20
    | .decHdr => 0x24
    | .runLen => 0x28
    | .runPos => 0x2C
    | .sel => 0x30
    | .nzCount => 0x34
    | .cls => 0x38
    | .white => 0x3C
    | .hdrArg => 0x40
    | .decConsumed => 0x44) ∧
  (∀ (p : Params) (w : Window), (w.base, w.size p) = match w with
    | .fbA => (0x00010000, p.width * p.height / 8)
    | .fbB => (0x00020000, p.width * p.height / 8)
    | .fbC => (0x00030000, p.width * p.height / 8)
    | .runbuf => (0x00040000, 2 * (p.width * p.height / 8))
    | .cache => (0x00050000, p.width * p.height / 8)
    | .frameOut => (0x00060000, p.width * p.height / 8)
    | .seqMaj => (0x00070000, p.maxFrames)
    | .seqStb => (0x00080000, p.maxFrames)
    | .clipMem => (0x10000000, p.maxFrames * (p.width * p.height / 8))) ∧
  ∀ p : Params, p.wf = true →
    (∀ r : Reg, (State.afterPowerOn p).memRead (BitVec.ofNat 32 r.offset) .four = match r with
      | .cfgWindow => 0x0000000F
      | .geom => BitVec.ofNat 32 (p.width + p.height * 65536)
      | .frameBytes => BitVec.ofNat 32 (p.width * p.height / 8)
      | _ => 0) ∧
    (State.afterPowerOn p).cacheValid = false ∧ (State.afterPowerOn p).phase = .idle ∧
    ∀ a, (State.afterPowerOn p).byteAt a = none

/-- 70_reset_and_hazards.md R350, R353: a power-on reset (in the model an event of the pending queue, log 9)
leaves the machine as after power-on, whatever it was, except the environment, which "a core reset changes
none of". -/
def Obligations.PowerOnKeepsEnvironment : Prop :=
  ∀ (s : State) (rest : List HostOp), s.hostQueue = .powerOn :: rest →
    step s = .next { State.afterPowerOn s.cfg with
      inBytes := s.inBytes, inPos := s.inPos, outBytes := s.outBytes, renderEvents := s.renderEvents
      hostQueue := rest, hostReads := s.hostReads, draws := s.draws }

/-- 10_state.md R35, R38, R41, R43, R45, R49: what a host write to each writable register other than CMD
stores, as the host reads it back, and that nothing else changes; R32: a write to a read-only register is
ignored. -/
def Obligations.RegisterWritesAreLegalised : Prop :=
  ∀ (s : State) (v : Word), s.cfg.wf = true →
    (∃ t, step { s with hostQueue := hostWr .cfgWindow v :: s.hostQueue } = .next t ∧
      t = { s with cfgWindow := t.cfgWindow } ∧
      (t.readReg .cfgWindow).toNat = max 1 (v.toNat % 65536)) ∧
    (∃ t, step { s with hostQueue := hostWr .clipFrames v :: s.hostQueue } = .next t ∧
      t = { s with clipFrames := t.clipFrames } ∧
      (t.readReg .clipFrames).toNat = min v.toNat s.cfg.maxFrames) ∧
    (∃ t, step { s with hostQueue := hostWr .crcExpect v :: s.hostQueue } = .next t ∧
      t = { s with crcExpect := t.crcExpect } ∧
      (t.readReg .crcExpect).toNat = v.toNat % 65536) ∧
    (∃ t, step { s with hostQueue := hostWr .runLen v :: s.hostQueue } = .next t ∧
      t = { s with runLen := t.runLen } ∧
      (t.readReg .runLen).toNat = min v.toNat (2 * s.cfg.frameBytes)) ∧
    (∃ t, step { s with hostQueue := hostWr .sel v :: s.hostQueue } = .next t ∧
      t = { s with selHasPrev := t.selHasPrev } ∧
      (t.readReg .sel).toNat = v.toNat % 2) ∧
    (∃ t, step { s with hostQueue := hostWr .hdrArg v :: s.hostQueue } = .next t ∧
      t = { s with hdrArg := t.hdrArg } ∧
      (t.readReg .hdrArg).toNat = v.toNat % 256) ∧
    (∀ r ∈ [Reg.status, .geom, .frameBytes, .encBytes, .crcResult, .decHdr, .runPos, .nzCount, .cls,
        .white, .decConsumed],
      step { s with hostQueue := hostWr r v :: s.hostQueue } = .next s)

/-- 10_state.md R34, 60_exceptions.md R321: the bits of STATUS as the host reads them at offset 0x04, with the
numbers of the failure kinds and of the phases; bits [7] and [31:19] read 0. -/
def Obligations.StatusWordLayout : Prop :=
  ∀ (s : State) (v : Word), v = s.memRead 0x04 .four →
    v.getLsbD 0 = s.status.ok ∧ v.getLsbD 1 = s.status.illegal ∧ v.getLsbD 2 = s.status.produced ∧
    v.getLsbD 3 = s.cacheValid ∧ v.getLsbD 4 = s.status.key ∧ v.getLsbD 5 = s.status.crcMatch ∧
    v.getLsbD 6 = s.status.truncAtBoundary ∧ v.getLsbD 7 = false ∧
    v.toNat / 2 ^ 8 % 16 = (match s.status.decErr with
      | none => 0
      | some .streamTruncated => 1
      | some .runOverflow => 2
      | some .checksumMismatch => 3
      | some .deltaWithoutHistory => 4
      | some .zeroRun => 5) ∧
    v.toNat / 2 ^ 12 % 16 = (match s.status.rleErr with
      | none => 0
      | some .streamTruncated => 1
      | some .runOverflow => 2
      | some .checksumMismatch => 3
      | some .deltaWithoutHistory => 4
      | some .zeroRun => 5) ∧
    v.toNat / 2 ^ 16 = (match s.status.failPhase with
      | none => 0
      | some .awaitingHeader => 1
      | some .decodingRuns => 2
      | some .applyingDelta => 3
      | some .verifyingChecksum => 4)

/-! ### The host bus -/

/-- 20_memory.md R71, R72, 10_state.md R51: accesses of the wrong width, misaligned, to a reserved register
offset, or not wholly inside one window's used size read 0 and are ignored as writes. -/
def Obligations.AccessOutsideMapIsIgnored : Prop :=
  ∀ (s : State) (a : Word) (n : Width) (v : Word),
    ((a.toNat < 0x100 ∧ (n ≠ .four ∨ a.toNat % 4 ≠ 0 ∨ 0x48 ≤ a.toNat)) ∨
     (0x100 ≤ a.toNat ∧ (a.toNat % n.bytes ≠ 0 ∨
        ∀ w : Window, ¬ (w.base ≤ a.toNat ∧ a.toNat + n.bytes ≤ w.base + w.size s.cfg)))) →
    s.memRead a n = 0 ∧ step { s with hostQueue := .write a n v :: s.hostQueue } = .next s

/-- 20_memory.md R73: a read of n bytes of a window is the little-endian sum of its byte reads; a write of n
bytes stores the low byte first (two bits of each byte in SEQ_MAJ and SEQ_STB, 10_state.md R60) and changes
nothing else; a register read as a word returns its value, reserved bits 0, at the offsets of 10_state.md R32
(STATUS has a statement of its own). No mode or register switches the byte order. -/
def Obligations.HostBusIsLittleEndian : Prop :=
  (∀ (s : State) (r : Reg), s.memRead (BitVec.ofNat 32 r.offset) .four = s.readReg r) ∧
  (∀ s : State, s.cfg.wf = true →
    s.memRead 0x00 .four = s.cmd ∧
    (s.memRead 0x08 .four).toNat = s.cfgWindow.toNat ∧
    (s.memRead 0x0C .four).toNat = s.cfg.width + 65536 * s.cfg.height ∧
    (s.memRead 0x10 .four).toNat = s.cfg.width * s.cfg.height / 8 ∧
    s.memRead 0x14 .four = s.clipFrames ∧
    s.memRead 0x18 .four = s.encBytes ∧
    (s.memRead 0x1C .four).toNat = s.crcResult.toNat ∧
    (s.memRead 0x20 .four).toNat = s.crcExpect.toNat ∧
    (s.memRead 0x24 .four).toNat = s.decHdr.toNat ∧
    s.memRead 0x28 .four = s.runLen ∧
    s.memRead 0x2C .four = s.runPos ∧
    (s.memRead 0x30 .four).toNat = s.selHasPrev.toNat ∧
    s.memRead 0x34 .four = s.nzCount ∧
    (s.memRead 0x38 .four).toNat = s.majL.toNat + 2 * s.majR.toNat ∧
    (s.memRead 0x3C .four).toNat = s.whiteL.toNat + 65536 * s.whiteR.toNat ∧
    (s.memRead 0x40 .four).toNat = s.hdrArg.toNat ∧
    s.memRead 0x44 .four = s.decConsumed) ∧
  ∀ (s : State) (w : Window) (a : Word) (n : Width), s.cfg.wf = true → a.toNat % n.bytes = 0 →
    w.base ≤ a.toNat → a.toNat + n.bytes ≤ w.base + w.size s.cfg →
    (s.memRead a n).toNat =
      ((List.range n.bytes).map (fun k => (s.memRead (a + BitVec.ofNat 32 k) .one).toNat * 2 ^ (8 * k))).sum ∧
    (w ∉ [Window.cache, .frameOut] → ∀ v : Word,
      ∃ t, step { s with hostQueue := .write a n v :: s.hostQueue } = .next t ∧
        t = { s with mem := t.mem } ∧
        (∀ k, k < n.bytes → t.byteAt (a.toNat + k) = some
          (if w = .seqMaj ∨ w = .seqStb then v.extractLsb' (8 * k) 8 &&& 3 else v.extractLsb' (8 * k) 8)) ∧
        s.SameOutside t a.toNat n.bytes ∧
        (t.memRead a n).toNat =
          (if w = .seqMaj ∨ w = .seqStb then (v &&& 0x03030303).toNat else v.toNat) % 2 ^ (8 * n.bytes))

/-- 10_state.md R54, 20_memory.md R71: a host write anywhere in CACHE or FRAME_OUT is ignored. -/
def Obligations.CacheIsReadOnlyToHost : Prop :=
  ∀ (s : State) (w : Window) (a : Word) (n : Width) (v : Word), s.cfg.wf = true →
    w ∈ [Window.cache, .frameOut] → w.base ≤ a.toNat → a.toNat < w.base + 0x10000 →
    step { s with hostQueue := .write a n v :: s.hostQueue } = .next s

/-- 10_state.md R57, 20_memory.md R75: FRAME_OUT reads as the complement of CACHE under RAW and as CACHE
under STREAM, byte by byte. -/
def Obligations.FrameOutIsViewOfCache : Prop :=
  ∀ (s : State) (i : Nat), s.cfg.wf = true → i < s.cfg.frameBytes →
    (s.memRead (BitVec.ofNat 32 (Window.frameOut.base + i)) .one).toNat =
      match s.cfg.outConv with
      | .raw => 255 - (s.memRead (BitVec.ofNat 32 (Window.cache.base + i)) .one).toNat
      | .stream => (s.memRead (BitVec.ofNat 32 (Window.cache.base + i)) .one).toNat

/-- 20_memory.md R75: "a host read has no side effect anywhere": it only returns its value to the host
(`hostReads` and `draws` are the model's own fields, log 3 and log 5). -/
def Obligations.HostReadHasNoSideEffect : Prop :=
  ∀ (s : State) (a : Word) (n : Width) (rest : List HostOp), s.hostQueue = .read a n :: rest →
    ∃ t, step s = .next t ∧
      t = { s with hostQueue := rest, hostReads := s.hostReads ++ [s.memRead a n], draws := t.draws }

/-! ### Border classifier and stabilizer -/

/-- 40_border.md R138: INVERT complements the N bytes of FB_A, cannot fail, and changes nothing else. -/
def Obligations.InvertComplementsFrame : Prop :=
  encode .invert = 0x00000010 ∧ ∀ s : State, ∃ t, exec .invert s = .next t ∧
    (∀ i, i < s.cfg.frameBytes →
      t.byteAt (Window.fbA.base + i) = some (not8 (s.readByte (Window.fbA.base + i)))) ∧
    s.SameOutside t Window.fbA.base s.cfg.frameBytes ∧
    t = { s with mem := t.mem, status := s.status.completed true, draws := t.draws } ∧
    ∃ u, exec .invert t = .next u ∧ ∀ i, i < s.cfg.frameBytes →
      u.byteAt (Window.fbA.base + i) = some (s.readByte (Window.fbA.base + i))

/-- 40_border.md R139, R133: the white counts are the numbers of rows whose first and last pixel is 1, read
straight from the bits R133 names (bit 7 of the row's first byte and bit 0 of its last under MSB_FIRST, bit
0 and bit 7 under LSB_FIRST); a side is white iff strictly more than half. CLASSIFY changes nothing else. -/
def Obligations.ClassifyCountsColumns : Prop :=
  encode .classify = 0x00000011 ∧ ∀ s : State, s.cfg.wf = true → ∃ t, exec .classify s = .next t ∧
    t.whiteL.toNat = (List.range s.cfg.height).countP (fun r =>
      (s.readByte (Window.fbA.base + r * (s.cfg.width / 8))).getLsbD
        (match s.cfg.pixelOrder with
         | .msbFirst => 7
         | .lsbFirst => 0)) ∧
    t.whiteR.toNat = (List.range s.cfg.height).countP (fun r =>
      (s.readByte (Window.fbA.base + (r * (s.cfg.width / 8) + s.cfg.width / 8 - 1))).getLsbD
        (match s.cfg.pixelOrder with
         | .msbFirst => 0
         | .lsbFirst => 7)) ∧
    t.majL = decide (2 * t.whiteL.toNat > s.cfg.height) ∧
    t.majR = decide (2 * t.whiteR.toNat > s.cfg.height) ∧
    t = { s with
      whiteL := t.whiteL, whiteR := t.whiteR, majL := t.majL, majR := t.majR
      status := s.status.completed true
      draws := t.draws }

/-- 40_border.md R135, R136, frame by frame: frame 0 keeps its own majority; a later frame takes its
majority where it differs from the state before it and every raw majority in the look-ahead of
`min(Wn − 1, F − 1 − f)` frames agrees with it, and keeps the state before it otherwise. -/
def Obligations.StabilizerFrameRule : Prop :=
  ∀ (wn : Nat) (m : List Bool), 1 ≤ wn →
    (stabilize wn m).length = m.length ∧
    (∀ h : 0 < m.length, (stabilize wn m)[0]? = some m[0]) ∧
    ∀ (f : Nat) (h : f + 1 < m.length),
      (stabilize wn m)[f + 1]? =
        if (stabilize wn m)[f]? ≠ some m[f + 1] ∧
            (∀ j, 1 ≤ j → j ≤ min (wn - 1) (m.length - 1 - (f + 1)) → m[f + 1 + j]? = some m[f + 1])
        then some m[f + 1] else (stabilize wn m)[f]?

/-- 40_border.md R137 (the spec's own inference from R135 and R136): a window of 1 copies; a run of fewer
than Wn differing frames that ends before the clip does is suppressed. -/
def Obligations.StabilizerSuppressesBlips : Prop :=
  (∀ m : List Bool, stabilize 1 m = m) ∧
  ∀ (wn : Nat) (m : List Bool) (f k : Nat) (b : Bool), 1 ≤ k → k < wn →
    (stabilize wn m)[f]? = some b →
    (∀ j, 1 ≤ j → j ≤ k → m[f + j]? = some (!b)) → m[f + k + 1]? = some b →
    ∀ j, j ≤ k + 1 → (stabilize wn m)[f + j]? = some b

/-- 40_border.md R140: STABILIZE writes SEQ_STB[0..F) from the raw majorities of SEQ_MAJ[0..F), left in bit
0 and right in bit 1, each side on its own; it changes nothing else, and with F = 0 no byte. -/
def Obligations.StabilizeWritesSequences : Prop :=
  encode .stabilize = 0x00000012 ∧ ∀ s : State, ∃ t, exec .stabilize s = .next t ∧
    (∀ f, f < s.clipFrames.toNat → ∃ b : Byte, t.byteAt (Window.seqStb.base + f) = some b ∧ b.toNat < 4 ∧
      (stabilize s.cfgWindow.toNat ((List.range s.clipFrames.toNat).map
        (fun g => (s.readByte (Window.seqMaj.base + g)).getLsbD 0)))[f]? = some (b.getLsbD 0) ∧
      (stabilize s.cfgWindow.toNat ((List.range s.clipFrames.toNat).map
        (fun g => (s.readByte (Window.seqMaj.base + g)).getLsbD 1)))[f]? = some (b.getLsbD 1)) ∧
    s.SameOutside t Window.seqStb.base s.clipFrames.toNat ∧
    t = { s with mem := t.mem, status := s.status.completed true, draws := t.draws }

/-! ### Selector -/

/-- 41_select.md R162: a missing previous frame makes a keyframe; else the strict exact comparison, equal to
`NZ > floor(3N/4)` for every N; for N = 640 a keyframe from 481 on. -/
def Obligations.KeyframeThreshold : Prop :=
  ∀ (p : Params) (cur prev : List Byte),
    isKey p cur none = true ∧
    (isKey p cur (some prev) = true ↔ 4 * nonzeroCount (xorFrame cur prev) > 3 * p.frameBytes) ∧
    (isKey p cur (some prev) = true ↔ nonzeroCount (xorFrame cur prev) > 3 * p.frameBytes / 4) ∧
    (p.frameBytes = 640 → (isKey p cur (some prev) = true ↔ 481 ≤ nonzeroCount (xorFrame cur prev)))

/-- 41_select.md R165: with no previous frame FB_C is FB_A, KEY 1, NZ_COUNT 0, FB_B unread; with one,
NZ_COUNT is the number of differing bytes, KEY the strict threshold, FB_C the frame or the XOR. Nothing
else changes. -/
def Obligations.SelectChoosesPayload : Prop :=
  encode .select = 0x00000020 ∧ ∀ s : State, s.cfg.wf = true → ∃ t, exec .select s = .next t ∧
    (s.selHasPrev = false → t.status.key = true ∧ t.nzCount = 0) ∧
    (s.selHasPrev = true →
      t.nzCount.toNat = (List.range s.cfg.frameBytes).countP (fun i =>
        decide (s.readByte (Window.fbA.base + i) ≠ s.readByte (Window.fbB.base + i))) ∧
      t.status.key = decide (4 * t.nzCount.toNat > 3 * s.cfg.frameBytes)) ∧
    (∀ i, i < s.cfg.frameBytes → t.byteAt (Window.fbC.base + i) = some
      (if t.status.key = true then s.readByte (Window.fbA.base + i)
       else xor8 (s.readByte (Window.fbA.base + i)) (s.readByte (Window.fbB.base + i)))) ∧
    s.SameOutside t Window.fbC.base s.cfg.frameBytes ∧
    t = { s with
      mem := t.mem, nzCount := t.nzCount, draws := t.draws
      status := { s.status.completed true with key := t.status.key } }

/-- 41_select.md R166: XOR_APPLY xors FB_B into FB_C and changes nothing else; where FB_B is written,
applying it twice restores FB_C. -/
def Obligations.XorApplyIsSelfInverse : Prop :=
  encode .xorApply = 0x00000021 ∧ ∀ s : State, s.cfg.wf = true → ∃ t, exec .xorApply s = .next t ∧
    (∀ i, i < s.cfg.frameBytes → t.byteAt (Window.fbC.base + i) = some
      (xor8 (s.readByte (Window.fbC.base + i)) (s.readByte (Window.fbB.base + i)))) ∧
    s.SameOutside t Window.fbC.base s.cfg.frameBytes ∧
    t = { s with mem := t.mem, status := s.status.completed true, draws := t.draws } ∧
    ((∀ i, i < s.cfg.frameBytes → ∃ b, s.byteAt (Window.fbB.base + i) = some b) →
      ∃ u, exec .xorApply t = .next u ∧ ∀ i, i < s.cfg.frameBytes →
        u.byteAt (Window.fbC.base + i) = some (s.readByte (Window.fbC.base + i)))

/-! ### Run-length codec -/

/-- 42_rle.md R181, R182: the encoding of a nonempty payload is a run-list with counts 1 to 255 whose
expansion is the payload, adjacent pairs of one value only after a full run, and with between ceil(n/255)
and n pairs. -/
def Obligations.RleEncodeGivesCanonicalRuns : Prop :=
  ∀ p : List Byte, p ≠ [] → ∃ rs : List (Nat × Byte),
    rleEncode p = serialiseRuns rs ∧ legalRuns rs ∧ expandRuns rs = p ∧ runTotal rs = p.length ∧
    canonicalRuns rs ∧ (p.length + 254) / 255 ≤ rs.length ∧ rs.length ≤ p.length

/-- 42_rle.md R181, R182, "the encoding of a payload is unique" (the spec's inference): a run-list with counts 1
to 255 whose adjacent pairs share a value only after a full run is the encoding of its expansion. -/
def Obligations.EncodingIsTheCanonicalRunList : Prop :=
  ∀ rs : List (Nat × Byte), legalRuns rs → canonicalRuns rs → rleEncode (expandRuns rs) = serialiseRuns rs

/-- 42_rle.md R187: decoding the encoding gives the payload back, consumes exactly the encoding whatever
follows it, under either treatment of zero runs. -/
def Obligations.RleRoundTrip : Prop :=
  ∀ (zr : ZeroRun) (p rest : List Byte),
    rleDecode zr p.length (rleEncode p ++ rest) = { result := .ok p, used := (rleEncode p).length }

/-- 42_rle.md R188, R183: every run-list with counts 1 to 255 that sums to the frame is accepted, canonical
or not, and nothing after it is read. -/
def Obligations.RleDecodeAcceptsAnyRunList : Prop :=
  ∀ (zr : ZeroRun) (rs : List (Nat × Byte)) (rest : List Byte), legalRuns rs →
    rleDecode zr (runTotal rs) (serialiseRuns rs ++ rest) =
      { result := .ok (expandRuns rs), used := 2 * rs.length }

/-- 42_rle.md R183, R184: after pairs that leave the frame unfilled, the next bytes decide: none or a lone
count is StreamTruncated, too large a count RunOverflow, a zero count ZeroRun under REJECT and nothing under
ACCEPT; the bytes read are those consumed. -/
def Obligations.RleDecodeErrors : Prop :=
  ∀ (zr : ZeroRun) (rs : List (Nat × Byte)) (need : Nat), legalRuns rs → runTotal rs < need →
    rleDecode zr need (serialiseRuns rs) = { result := .err .streamTruncated, used := 2 * rs.length } ∧
    (∀ c : Byte, rleDecode zr need (serialiseRuns rs ++ [c]) =
      { result := .err .streamTruncated, used := 2 * rs.length + 1 }) ∧
    (∀ (c v : Byte) (rest : List Byte), c.toNat > need - runTotal rs →
      rleDecode zr need (serialiseRuns rs ++ c :: v :: rest) =
        { result := .err .runOverflow, used := 2 * rs.length + 2 }) ∧
    (∀ (v : Byte) (rest : List Byte), zr = .reject →
      rleDecode zr need (serialiseRuns rs ++ 0 :: v :: rest) =
        { result := .err .zeroRun, used := 2 * rs.length + 2 }) ∧
    (∀ (v : Byte) (rest : List Byte), zr = .accept →
      rleDecode zr need (serialiseRuns rs ++ 0 :: v :: rest) =
        { result := (rleDecode zr need (serialiseRuns rs ++ rest)).result
          used := (rleDecode zr need (serialiseRuns rs ++ rest)).used + 2 })

/-- 42_rle.md R185: RLE_ENC writes the run-list of FB_C at the start of RUNBUF and its length, which never
exceeds 2N, to RUN_LEN; the bytes of RUNBUF beyond it and everything else are unchanged. -/
def Obligations.RleEncWritesRunList : Prop :=
  encode .rleEnc = 0x00000030 ∧ ∀ s : State, s.cfg.wf = true → ∃ t, exec .rleEnc s = .next t ∧
    t.HoldsBytes Window.runbuf.base
      (rleEncode ((List.range s.cfg.frameBytes).map (fun i => s.readByte (Window.fbC.base + i)))) ∧
    t.runLen.toNat =
      (rleEncode ((List.range s.cfg.frameBytes).map (fun i => s.readByte (Window.fbC.base + i)))).length ∧
    t.runLen.toNat ≤ 2 * s.cfg.frameBytes ∧
    s.SameOutside t Window.runbuf.base t.runLen.toNat ∧
    t = { s with
      mem := t.mem, runLen := t.runLen, status := s.status.completed true, draws := t.draws }

/-- 42_rle.md R186: RUN_POS is the number of bytes consumed; on success FB_C holds the output and RLE_ERR
is 0; on an error FB_C is unchanged and RLE_ERR and OK say so; nothing else changes. -/
def Obligations.RleDecDelivers : Prop :=
  encode .rleDec = 0x00000031 ∧ ∀ (s : State) (r : RleRead),
    r = rleDecode s.cfg.zeroRun s.cfg.frameBytes
      ((List.range s.runLen.toNat).map (fun i => s.readByte (Window.runbuf.base + i))) →
    ∃ t, exec .rleDec s = .next t ∧ t.runPos.toNat = r.used ∧ r.used ≤ s.runLen.toNat ∧
      (∀ out, r.result = .ok out →
        out.length = s.cfg.frameBytes ∧ t.HoldsBytes Window.fbC.base out ∧
        s.SameOutside t Window.fbC.base s.cfg.frameBytes ∧
        t.status = { s.status.completed true with rleErr := none }) ∧
      (∀ k, r.result = .err k →
        t.mem = s.mem ∧ t.status = { s.status.completed false with rleErr := some k }) ∧
      t = { s with mem := t.mem, runPos := t.runPos, status := t.status, draws := t.draws }

/-! ### CRC -/

/-- 43_crc.md R214, "flipping any single bit in a reconstructed frame changes its CRC", and more: any
change confined to one byte does. -/
def Obligations.CrcDetectsOneChangedByte : Prop :=
  ∀ (d : List Byte) (i : Nat) (h : i < d.length) (e : Byte), e ≠ 0 →
    crc16 (d.set i (xor8 d[i] e)) ≠ crc16 d

/-- 43_crc.md R214: "It is affine over GF(2)": the checksum of a XOR is the checksum of one xored with the
seed-0 procedure over the other. -/
def Obligations.CrcIsAffine : Prop :=
  ∀ a e : List Byte, a.length = e.length →
    crc16 (xorFrame a e) = crc16 a ^^^ e.foldl crcByte 0

/-- 43_crc.md R210: the checksum is R210's own recurrence, seed 0xFFFF, each byte xored into the high byte and
then 8 times shifted left, with polynomial 0x1021 xored in where bit 15 was 1, no final XOR; its check values
0x29B1 and 0xD811. R215, R216: CRC_GEN puts the checksum of FB_A in CRC_RESULT; CRC_CHECK puts that of FB_C
there and compares all 16 bits with CRC_EXPECT; neither changes anything else. -/
def Obligations.CrcCommandsWriteResult : Prop :=
  (∀ d : List Byte, crc16 d = d.foldl (fun (c : Half) (b : Byte) => (List.range 8).foldl
    (fun (x : Half) _ => if x.getLsbD 15 = true then (x <<< 1) ^^^ 0x1021 else x <<< 1)
    (c ^^^ (b.setWidth 16 <<< 8))) (0xFFFF : Half)) ∧
  crc16 [0x31, 0x32, 0x33, 0x34, 0x35, 0x36, 0x37, 0x38, 0x39] = 0x29B1 ∧ crc16 (List.replicate 640 0) = 0xD811 ∧
  encode .crcGen = 0x00000040 ∧ encode .crcCheck = 0x00000041 ∧ ∀ s : State,
    (∃ t, exec .crcGen s = .next t ∧
      t = { s with
        crcResult := crc16 ((List.range s.cfg.frameBytes).map (fun i => s.readByte (Window.fbA.base + i)))
        status := s.status.completed true
        draws := t.draws }) ∧
    (∃ t, exec .crcCheck s = .next t ∧
      t.crcResult =
        crc16 ((List.range s.cfg.frameBytes).map (fun i => s.readByte (Window.fbC.base + i))) ∧
      (t.status.crcMatch = true ↔ t.crcResult = s.crcExpect) ∧ t.status.ok = t.status.crcMatch ∧
      t = { s with
        crcResult := t.crcResult
        status := { s.status.completed t.status.ok with crcMatch := t.status.crcMatch }
        draws := t.draws })

/-! ### Framer -/

/-- 44_framer.md R232, R231: FRAME_EMIT appends the header, the run-list bytes and the checksum, low byte
first, exactly as they stand, and adds RUN_LEN + 3 to ENC_BYTES modulo 2^32; it changes nothing else. -/
def Obligations.FrameEmitAppendsRecord : Prop :=
  encode .frameEmit = 0x00000050 ∧ ∀ s : State, ∃ t, exec .frameEmit s = .next t ∧
    t.outBytes = s.outBytes ++ [s.hdrArg] ++
      (List.range s.runLen.toNat).map (fun i => s.readByte (Window.runbuf.base + i)) ++
      [BitVec.ofNat 8 (s.crcResult.toNat % 256), BitVec.ofNat 8 (s.crcResult.toNat / 256)] ∧
    t.encBytes.toNat = (s.encBytes.toNat + s.runLen.toNat + 3) % 2 ^ 32 ∧
    t = { s with
      outBytes := t.outBytes, encBytes := t.encBytes, status := s.status.completed true, draws := t.draws }

/-- 44_framer.md R233, R235: the stream of a clip is one record per frame, in order; record f's header is
the stabilized states and the keyframe decision with bits 7:3 zero, its run-list that of the payload
against the inverted frame before it, its checksum that of the inverted frame; frame 0 is a keyframe. The
border sequences it returns are the majorities of the inverted frames and their stabilized states. -/
def Obligations.EncodedStreamIsRecords : Prop :=
  ∀ (p : Params) (clip : List (List Byte)) (wn : Nat),
    (encodeClip p clip wn).mL = clip.map (fun fr => majority p (whiteLeft p (fr.map not8))) ∧
    (encodeClip p clip wn).mR = clip.map (fun fr => majority p (whiteRight p (fr.map not8))) ∧
    (encodeClip p clip wn).sL = stabilize wn (encodeClip p clip wn).mL ∧
    (encodeClip p clip wn).sR = stabilize wn (encodeClip p clip wn).mR ∧
    ∃ recs : List (List Byte), (encodeClip p clip wn).out = recs.flatten ∧ recs.length = clip.length ∧
      ∀ (f : Nat) (h : f < clip.length), ∃ (hd : Byte) (key : Bool) (pay : List Byte),
        recs[f]? = some (hd :: (rleEncode pay ++
          [BitVec.ofNat 8 ((crc16 (clip[f].map not8)).toNat % 256),
           BitVec.ofNat 8 ((crc16 (clip[f].map not8)).toNat / 256)])) ∧
        hd.toNat < 8 ∧ hd.getLsbD 2 = key ∧
        (encodeClip p clip wn).sL[f]? = some (hd.getLsbD 0) ∧
        (encodeClip p clip wn).sR[f]? = some (hd.getLsbD 1) ∧
        (f = 0 → key = true) ∧
        (∀ g (hg : g < clip.length), f = g + 1 →
          (key = true ↔ 4 * nonzeroCount (xorFrame (clip[f].map not8) (clip[g].map not8))
            > 3 * p.frameBytes) ∧
          (key = false → pay = xorFrame (clip[f].map not8) (clip[g].map not8))) ∧
        (key = true → pay = clip[f].map not8)

/-- 44_framer.md R234: ENC_CLIP appends the stream of the clip to the sink, writes both border sequences,
sets ENC_BYTES to the stream's length modulo 2^32, and changes nothing else (in particular FB_A, FB_B, FB_C,
RUNBUF, CRC_RESULT, NZ_COUNT, CLASS, WHITE). -/
def Obligations.EncClipWritesStream : Prop :=
  encode .encClip = 0x00000051 ∧ ∀ (s : State) (clip : List (List Byte)), s.cfg.wf = true → s.clipFrames.toNat ≤ s.cfg.maxFrames →
    clip = (List.range s.clipFrames.toNat).map (fun f => (List.range s.cfg.frameBytes).map
      (fun i => s.readByte (Window.clipMem.base + f * s.cfg.frameBytes + i))) →
    ∃ t, exec .encClip s = .next t ∧
      t.outBytes = s.outBytes ++ (encodeClip s.cfg clip s.cfgWindow.toNat).out ∧
      t.encBytes.toNat = (encodeClip s.cfg clip s.cfgWindow.toNat).out.length % 2 ^ 32 ∧
      (∀ f (h : f < clip.length), ∃ b c : Byte,
        t.byteAt (Window.seqMaj.base + f) = some b ∧ t.byteAt (Window.seqStb.base + f) = some c ∧
        b.toNat < 4 ∧ c.toNat < 4 ∧
        b.getLsbD 0 = majority s.cfg (whiteLeft s.cfg (clip[f].map not8)) ∧
        b.getLsbD 1 = majority s.cfg (whiteRight s.cfg (clip[f].map not8)) ∧
        (encodeClip s.cfg clip s.cfgWindow.toNat).sL[f]? = some (c.getLsbD 0) ∧
        (encodeClip s.cfg clip s.cfgWindow.toNat).sR[f]? = some (c.getLsbD 1)) ∧
      (∀ a, ¬ (Window.seqMaj.base ≤ a ∧ a < Window.seqMaj.base + clip.length) →
        ¬ (Window.seqStb.base ≤ a ∧ a < Window.seqStb.base + clip.length) → t.byteAt a = s.byteAt a) ∧
      t = { s with
        outBytes := t.outBytes, encBytes := t.encBytes, mem := t.mem
        status := s.status.completed true
        draws := t.draws }

/-- 44_framer.md R237: the component commands INVERT, CRC_GEN, SELECT, RLE_ENC, then HDR_ARG and FRAME_EMIT,
write the record ENC_CLIP writes for the frame: that of `encodeFrame` with FB_B as the previous frame where
SEL.HAS_PREV = 1, and with none where it is 0 (frame 0), when nothing is asked of FB_B. -/
def Obligations.ComponentCommandsEmitFrame : Prop :=
  ∀ (s : State) (l r : Bool) (cur prev : List Byte), s.cfg.wf = true →
    cur = (List.range s.cfg.frameBytes).map (fun i => not8 (s.readByte (Window.fbA.base + i))) →
    (s.selHasPrev = true → prev.length = s.cfg.frameBytes ∧ s.HoldsBytes Window.fbB.base prev) →
    ∃ t, execAll [.invert, .crcGen, .select, .rleEnc] s = .next t ∧
      ∃ u, exec .frameEmit { t with hdrArg := headerByte l r t.status.key } = .next u ∧
        u.outBytes = s.outBytes ++
          encodeFrame s.cfg (if s.selHasPrev = true then some prev else none) cur l r

/-! ### Decoder -/

/-- 45_decoder.md R269, with R262 to R268: what DEC_FRAME does on every input, phase by phase: no byte left, a
run-list that fails, a cut trailer, a delta without a valid cache, a wrong checksum, or a commit. `RleDecode`
reads the bytes after the header. -/
def Obligations.DecodeFollowsPhases : Prop :=
  encode .decFrame = 0x00000060 ∧ ∀ s : State, ∃ t, exec .decFrame s = .next t ∧
    (s.unread = [] → s.FailsAs t .streamTruncated .awaitingHeader 0 s.crcResult) ∧
    ∀ (h : Byte) (rest : List Byte) (r : RleRead), s.unread = h :: rest →
      r = rleDecode s.cfg.zeroRun s.cfg.frameBytes rest →
      (∀ k, r.result = .err k → s.FailsAs t k .decodingRuns (1 + r.used) s.crcResult) ∧
      ∀ out, r.result = .ok out →
        ((rest.drop r.used).length < 2 →
          s.FailsAs t .streamTruncated .decodingRuns (1 + rest.length) s.crcResult) ∧
        ∀ (t0 t1 : Byte) (more w : List Byte), rest.drop r.used = t0 :: t1 :: more →
          w = (if h.getLsbD 2 = true then out else xorFrame out
            ((List.range s.cfg.frameBytes).map (fun i => s.readByte (Window.cache.base + i)))) →
          (h.getLsbD 2 = false → s.cacheValid = false →
            s.FailsAs t .deltaWithoutHistory .applyingDelta (3 + r.used) s.crcResult) ∧
          (h.getLsbD 2 = true ∨ s.cacheValid = true →
            ((crc16 w).toNat ≠ t0.toNat + 256 * t1.toNat →
              s.FailsAs t .checksumMismatch .verifyingChecksum (3 + r.used) (crc16 w)) ∧
            ((crc16 w).toNat = t0.toNat + 256 * t1.toNat → s.CommitsAs t h w (3 + r.used)))

/-- 45_decoder.md R269, R263 to R267: a whole record whose run-list has counts 1 to 255 summing to N, a
keyframe or a delta with a valid cache, and whose checksum is that of the reconstructed frame, commits. -/
def Obligations.WholeRecordCommits : Prop :=
  ∀ (s : State) (h t0 t1 : Byte) (rs : List (Nat × Byte)) (rest w : List Byte), s.cfg.wf = true →
    s.unread = h :: (serialiseRuns rs ++ t0 :: t1 :: rest) → legalRuns rs → runTotal rs = s.cfg.frameBytes →
    (h.getLsbD 2 = true ∧ w = expandRuns rs ∨
      h.getLsbD 2 = false ∧ s.cacheValid = true ∧ w = xorFrame (expandRuns rs)
        ((List.range s.cfg.frameBytes).map (fun i => s.readByte (Window.cache.base + i)))) →
    (crc16 w).toNat = t0.toNat + 256 * t1.toNat →
    ∃ t, exec .decFrame s = .next t ∧ s.CommitsAs t h w (3 + 2 * rs.length)

/-- 45_decoder.md R265, R266, R272: a whole record that is a delta without a valid cache fails
DeltaWithoutHistory, whatever its checksum; any other whole record with a wrong checksum fails
ChecksumMismatch with the recomputed checksum in CRC_RESULT. -/
def Obligations.WholeRecordFailures : Prop :=
  ∀ (s : State) (h t0 t1 : Byte) (rs : List (Nat × Byte)) (rest : List Byte), s.cfg.wf = true →
    s.unread = h :: (serialiseRuns rs ++ t0 :: t1 :: rest) → legalRuns rs → runTotal rs = s.cfg.frameBytes →
    (h.getLsbD 2 = false → s.cacheValid = false → ∃ t, exec .decFrame s = .next t ∧
      s.FailsAs t .deltaWithoutHistory .applyingDelta (3 + 2 * rs.length) s.crcResult) ∧
    (∀ w : List Byte,
      (h.getLsbD 2 = true ∧ w = expandRuns rs ∨
        h.getLsbD 2 = false ∧ s.cacheValid = true ∧ w = xorFrame (expandRuns rs)
          ((List.range s.cfg.frameBytes).map (fun i => s.readByte (Window.cache.base + i)))) →
      (crc16 w).toNat ≠ t0.toNat + 256 * t1.toNat →
      ∃ t, exec .decFrame s = .next t ∧
        s.FailsAs t .checksumMismatch .verifyingChecksum (3 + 2 * rs.length) (crc16 w))

/-- 45_decoder.md R263: a run-list that overflows the frame fails RunOverflow, and one with a zero count
fails ZeroRun under REJECT, in DecodingRuns, with the offending pair consumed. -/
def Obligations.BadRunListFails : Prop :=
  ∀ (s : State) (h c v : Byte) (rs : List (Nat × Byte)) (rest : List Byte),
    s.unread = h :: (serialiseRuns rs ++ c :: v :: rest) → legalRuns rs → runTotal rs < s.cfg.frameBytes →
    (c.toNat > s.cfg.frameBytes - runTotal rs → ∃ t, exec .decFrame s = .next t ∧
      s.FailsAs t .runOverflow .decodingRuns (3 + 2 * rs.length) s.crcResult) ∧
    (c = 0 → s.cfg.zeroRun = .reject → ∃ t, exec .decFrame s = .next t ∧
      s.FailsAs t .zeroRun .decodingRuns (3 + 2 * rs.length) s.crcResult)

/-- 45_decoder.md R262, R264, R277 and 95_test_vectors.md V8: a valid record cut off at any byte offset, with
nothing after it, fails StreamTruncated (in AwaitingHeader, at a boundary, iff no byte of it is left) having
consumed what there is, and leaves CACHE's bytes as they were. -/
def Obligations.TruncatedRecordFails : Prop :=
  ∀ (s : State) (h t0 t1 : Byte) (rs : List (Nat × Byte)) (k : Nat),
    legalRuns rs → runTotal rs = s.cfg.frameBytes → k < 3 + 2 * rs.length →
    s.unread = (h :: (serialiseRuns rs ++ [t0, t1])).take k →
    ∃ t, exec .decFrame s = .next t ∧
      s.FailsAs t .streamTruncated (if k = 0 then .awaitingHeader else .decodingRuns) k s.crcResult

/-- 45_decoder.md R270, R274: for every input whatever, a DEC_FRAME either commits a whole frame or fails as
a whole with a legal kind and phase, and PRODUCED tells which. -/
def Obligations.DecodeCommitsOrFailsWhole : Prop :=
  ∀ s : State, ∃ t, exec .decFrame s = .next t ∧ ∃ used, used ≤ s.unread.length ∧
    ((t.status.produced = true ∧ ∃ h w, w.length = s.cfg.frameBytes ∧ s.unread.head? = some h ∧
        (h.getLsbD 2 = true ∨ s.cacheValid = true) ∧ s.CommitsAs t h w used) ∨
     (t.status.produced = false ∧ ∃ k p crc, legalDecodeFailure k p = true ∧
        (k ≠ .checksumMismatch → crc = s.crcResult) ∧ (k = .streamTruncated → used = s.unread.length) ∧
        s.FailsAs t k p used crc))

/-- 70_reset_and_hazards.md R366: "DEC_FRAME reads at most 3 + 2N bytes under P_ZERO_RUN = REJECT". -/
def Obligations.DecodeReadsBoundedInput : Prop :=
  ∀ s t : State, s.cfg.zeroRun = .reject → exec .decFrame s = .next t →
    t.inPos - s.inPos ≤ 3 + 2 * s.cfg.frameBytes

/-- 45_decoder.md R275, 10_state.md R54: under INVALIDATE a failed DEC_FRAME leaves no valid cache, every step
keeps that, while a failure is recorded, the cache is not valid, and a step that makes the cache valid or
renders is a commit of a keyframe; so, whatever commands, accesses and inputs stand between, the next frame
that commits is a keyframe: "delta frames never appear without a successfully decoded predecessor". -/
def Obligations.FailureForcesKeyframe : Prop :=
  (∀ s t : State, s.cfg.failPolicy = .invalidate → exec .decFrame s = .next t → t.status.produced = false →
    t.cacheValid = false ∧ t.status.decErr ≠ none) ∧
  (∀ s t : State, s.cfg.failPolicy = .invalidate → (s.status.decErr ≠ none → s.cacheValid = false) →
    step s = .next t → t.status.decErr ≠ none → t.cacheValid = false) ∧
  (∀ s t : State, s.cacheValid = false → step s = .next t →
    t.cacheValid = true ∨ t.renderEvents ≠ s.renderEvents →
    t.status.produced = true ∧ t.decHdr.getLsbD 2 = true) ∧
  (∀ (s t u : State) (bytes : List Byte) (pos : Nat), s.cfg.failPolicy = .invalidate →
    exec .decFrame s = .next t → t.status.produced = false →
    exec .decFrame { t with inBytes := bytes, inPos := pos } = .next u → u.status.produced = true →
    u.decHdr.getLsbD 2 = true) ∧
  ∀ (k : Nat) (s t u : State), s.cacheValid = false → Host.Core.run Sys2Proof.core k s = .next t →
    t.renderEvents = s.renderEvents → step t = .next u → u.renderEvents ≠ t.renderEvents →
    u.status.produced = true ∧ u.decHdr.getLsbD 2 = true

/-- 45_decoder.md R273: DEC_RESTART seeks to the start, invalidates the cache and clears the decode fields
and DEC_CONSUMED; CACHE's bytes, DEC_HDR and everything else stay. -/
def Obligations.DecRestartRewinds : Prop :=
  encode .decRestart = 0x00000061 ∧ ∀ s : State, exec .decRestart s = .next { s with
    inPos := 0
    cacheValid := false
    status := { s.status.completed true with
      produced := false
      decErr := none
      failPhase := none
      truncAtBoundary := false }
    decConsumed := 0 }

/-- 10_state.md R52: DEC_FRAME neither reads nor writes FB_A, FB_B, FB_C, RUNBUF, the sequences or the clip
memory: two machines that differ only in bytes outside CACHE decode alike and stay different only there. -/
def Obligations.DecodeIgnoresOtherMemory : Prop :=
  ∀ (s t : State) (m : Memory), exec .decFrame s = .next t →
    (∀ i, i < s.cfg.frameBytes → m.get? (Window.cache.base + i) = s.byteAt (Window.cache.base + i)) →
    ∃ u, exec .decFrame { s with mem := m } = .next u ∧ u = { t with mem := u.mem } ∧
      (∀ i, i < s.cfg.frameBytes → u.byteAt (Window.cache.base + i) = t.byteAt (Window.cache.base + i)) ∧
      ∀ a, ¬ (Window.cache.base ≤ a ∧ a < Window.cache.base + s.cfg.frameBytes) → u.byteAt a = m.get? a

/-! ### Whole-machine rules -/

/-- 10_state.md R42, R54, R57: of all commands only DEC_FRAME writes CACHE's bytes, emits render events or
makes the cache valid, and only it and SOFT_RESET write DEC_HDR. -/
def Obligations.OnlyDecodeWritesCacheAndRenders : Prop :=
  ∀ (i : Instr) (s : State), s.cfg.wf = true → i ≠ .decFrame → ∃ t, exec i s = .next t ∧
    (∀ k, k < s.cfg.frameBytes → t.byteAt (Window.cache.base + k) = s.byteAt (Window.cache.base + k)) ∧
    t.renderEvents = s.renderEvents ∧ (t.cacheValid = true → s.cacheValid = true) ∧
    (i ≠ .softReset → t.decHdr = s.decHdr) ∧
    (i ≠ .softReset → i ≠ .decRestart → t.cacheValid = s.cacheValid)

/-- 10_state.md R55, R56: only FRAME_EMIT and ENC_CLIP write the sink, and only by appending; IN_BYTES is
fixed during every command; only DEC_FRAME advances IN_POS and only DEC_RESTART moves it back, to 0. -/
def Obligations.OnlyTheirCommandsUsePorts : Prop :=
  ∀ (i : Instr) (s : State), ∃ t, exec i s = .next t ∧
    (∃ more, t.outBytes = s.outBytes ++ more ∧ (more ≠ [] → i = .frameEmit ∨ i = .encClip)) ∧
    t.inBytes = s.inBytes ∧
    (i ≠ .decFrame → i ≠ .decRestart → t.inPos = s.inPos) ∧
    (i = .decFrame → s.inPos ≤ t.inPos) ∧ (i = .decRestart → t.inPos = 0)

/-- The machine after power-on is good, for every legal parameter value, and so is `State.reset` (whose
environment is the model's choice, log 4). -/
def Obligations.PowerOnIsGood : Prop :=
  (∀ p : Params, p.wf = true → (State.afterPowerOn p).Good) ∧ State.reset.Good

/-- Every step keeps the machine good (Safety.lean): memory stays canonical, inside the map's used sizes,
with two-bit sequence entries and every CACHE byte defined while the cache is valid (10_state.md R64); every
register stays in the range its rule gives; STATUS tells one story; between commands no phase is running. -/
def Obligations.StepKeepsMachineGood : Prop :=
  ∀ s t : State, s.Good → step s = .next t → t.Good

/-- 44_framer.md R236 (the spec's inference), the codec's headline: encode a clip with ENC_CLIP, give the
stream to the decoder with an invalid cache, and the k-th DEC_FRAME commits frame k: CACHE is the inverted
frame, DEC_HDR the header with the stabilized borders and the keyframe decision, FRAME_OUT under RAW the raw frame itself; a further
DEC_FRAME fails StreamTruncated at the boundary. -/
def Obligations.ClipRoundTrip : Prop :=
  ∀ (s : State) (clip : List (List Byte)), s.Good → s.cacheValid = false → s.outBytes = [] →
    clip = (List.range s.clipFrames.toNat).map (fun f => (List.range s.cfg.frameBytes).map
      (fun i => s.readByte (Window.clipMem.base + f * s.cfg.frameBytes + i))) →
    ∃ t, exec .encClip s = .next t ∧
      (∀ f (h : f < clip.length), ∃ u,
        execAll (List.replicate (f + 1) .decFrame) { t with inBytes := t.outBytes, inPos := 0 } = .next u ∧
        u.status.produced = true ∧ u.cacheValid = true ∧
        u.HoldsBytes Window.cache.base (clip[f].map not8) ∧
        u.decHdr.toNat < 8 ∧
        (u.decHdr.getLsbD 2 = true ↔ ∀ g (hg : g < clip.length), f = g + 1 →
          4 * nonzeroCount (xorFrame (clip[f].map not8) (clip[g].map not8)) > 3 * s.cfg.frameBytes) ∧
        (encodeClip s.cfg clip s.cfgWindow.toNat).sL[f]? = some u.borderL ∧
        (encodeClip s.cfg clip s.cfgWindow.toNat).sR[f]? = some u.borderR ∧
        (s.cfg.outConv = .raw → u.frameOut = clip[f]) ∧
        u.renderEvents.length = s.renderEvents.length + (f + 1)) ∧
      ∃ u, execAll (List.replicate (clip.length + 1) .decFrame) { t with inBytes := t.outBytes, inPos := 0 }
          = .next u ∧
        u.status.produced = false ∧ u.status.decErr = some .streamTruncated ∧
        u.status.truncAtBoundary = true ∧ u.inPos = t.outBytes.length
end

