-- ==== Sys2Proof/Laws/State.lean ====
section
/-!
SUPPORT. The small lemmas of State: for each shared update, what each field holds after it. All are true
by rfl; with them no proof unfolds a record update.
-/

namespace Sys2Proof.Machine.State

section writeBytes

variable (s : State) (base : Nat) (bs : List Byte)

@[simp] theorem writeBytes_cfg : (s.writeBytes base bs).cfg = s.cfg := rfl
@[simp] theorem writeBytes_cmd : (s.writeBytes base bs).cmd = s.cmd := rfl
@[simp] theorem writeBytes_status : (s.writeBytes base bs).status = s.status := rfl
@[simp] theorem writeBytes_cfgWindow : (s.writeBytes base bs).cfgWindow = s.cfgWindow := rfl
@[simp] theorem writeBytes_clipFrames : (s.writeBytes base bs).clipFrames = s.clipFrames := rfl
@[simp] theorem writeBytes_encBytes : (s.writeBytes base bs).encBytes = s.encBytes := rfl
@[simp] theorem writeBytes_crcResult : (s.writeBytes base bs).crcResult = s.crcResult := rfl
@[simp] theorem writeBytes_crcExpect : (s.writeBytes base bs).crcExpect = s.crcExpect := rfl
@[simp] theorem writeBytes_decHdr : (s.writeBytes base bs).decHdr = s.decHdr := rfl
@[simp] theorem writeBytes_runLen : (s.writeBytes base bs).runLen = s.runLen := rfl
@[simp] theorem writeBytes_runPos : (s.writeBytes base bs).runPos = s.runPos := rfl
@[simp] theorem writeBytes_selHasPrev : (s.writeBytes base bs).selHasPrev = s.selHasPrev := rfl
@[simp] theorem writeBytes_nzCount : (s.writeBytes base bs).nzCount = s.nzCount := rfl
@[simp] theorem writeBytes_majL : (s.writeBytes base bs).majL = s.majL := rfl
@[simp] theorem writeBytes_majR : (s.writeBytes base bs).majR = s.majR := rfl
@[simp] theorem writeBytes_whiteL : (s.writeBytes base bs).whiteL = s.whiteL := rfl
@[simp] theorem writeBytes_whiteR : (s.writeBytes base bs).whiteR = s.whiteR := rfl
@[simp] theorem writeBytes_hdrArg : (s.writeBytes base bs).hdrArg = s.hdrArg := rfl
@[simp] theorem writeBytes_decConsumed : (s.writeBytes base bs).decConsumed = s.decConsumed := rfl
@[simp] theorem writeBytes_mem : (s.writeBytes base bs).mem = s.mem.write base bs := rfl
@[simp] theorem writeBytes_cacheValid : (s.writeBytes base bs).cacheValid = s.cacheValid := rfl
@[simp] theorem writeBytes_work : (s.writeBytes base bs).work = s.work := rfl
@[simp] theorem writeBytes_phase : (s.writeBytes base bs).phase = s.phase := rfl
@[simp] theorem writeBytes_inBytes : (s.writeBytes base bs).inBytes = s.inBytes := rfl
@[simp] theorem writeBytes_inPos : (s.writeBytes base bs).inPos = s.inPos := rfl
@[simp] theorem writeBytes_outBytes : (s.writeBytes base bs).outBytes = s.outBytes := rfl
@[simp] theorem writeBytes_renderEvents : (s.writeBytes base bs).renderEvents = s.renderEvents := rfl
@[simp] theorem writeBytes_hostQueue : (s.writeBytes base bs).hostQueue = s.hostQueue := rfl
@[simp] theorem writeBytes_hostReads : (s.writeBytes base bs).hostReads = s.hostReads := rfl
@[simp] theorem writeBytes_draws : (s.writeBytes base bs).draws = s.draws := rfl

end writeBytes

section writeWindow

variable (s : State) (w : Window) (bs : List Byte)

@[simp] theorem writeWindow_cfg : (s.writeWindow w bs).cfg = s.cfg := rfl
@[simp] theorem writeWindow_cmd : (s.writeWindow w bs).cmd = s.cmd := rfl
@[simp] theorem writeWindow_status : (s.writeWindow w bs).status = s.status := rfl
@[simp] theorem writeWindow_cfgWindow : (s.writeWindow w bs).cfgWindow = s.cfgWindow := rfl
@[simp] theorem writeWindow_clipFrames : (s.writeWindow w bs).clipFrames = s.clipFrames := rfl
@[simp] theorem writeWindow_encBytes : (s.writeWindow w bs).encBytes = s.encBytes := rfl
@[simp] theorem writeWindow_crcResult : (s.writeWindow w bs).crcResult = s.crcResult := rfl
@[simp] theorem writeWindow_crcExpect : (s.writeWindow w bs).crcExpect = s.crcExpect := rfl
@[simp] theorem writeWindow_decHdr : (s.writeWindow w bs).decHdr = s.decHdr := rfl
@[simp] theorem writeWindow_runLen : (s.writeWindow w bs).runLen = s.runLen := rfl
@[simp] theorem writeWindow_runPos : (s.writeWindow w bs).runPos = s.runPos := rfl
@[simp] theorem writeWindow_selHasPrev : (s.writeWindow w bs).selHasPrev = s.selHasPrev := rfl
@[simp] theorem writeWindow_nzCount : (s.writeWindow w bs).nzCount = s.nzCount := rfl
@[simp] theorem writeWindow_majL : (s.writeWindow w bs).majL = s.majL := rfl
@[simp] theorem writeWindow_majR : (s.writeWindow w bs).majR = s.majR := rfl
@[simp] theorem writeWindow_whiteL : (s.writeWindow w bs).whiteL = s.whiteL := rfl
@[simp] theorem writeWindow_whiteR : (s.writeWindow w bs).whiteR = s.whiteR := rfl
@[simp] theorem writeWindow_hdrArg : (s.writeWindow w bs).hdrArg = s.hdrArg := rfl
@[simp] theorem writeWindow_decConsumed : (s.writeWindow w bs).decConsumed = s.decConsumed := rfl
@[simp] theorem writeWindow_mem : (s.writeWindow w bs).mem = s.mem.write w.base bs := rfl
@[simp] theorem writeWindow_cacheValid : (s.writeWindow w bs).cacheValid = s.cacheValid := rfl
@[simp] theorem writeWindow_work : (s.writeWindow w bs).work = s.work := rfl
@[simp] theorem writeWindow_phase : (s.writeWindow w bs).phase = s.phase := rfl
@[simp] theorem writeWindow_inBytes : (s.writeWindow w bs).inBytes = s.inBytes := rfl
@[simp] theorem writeWindow_inPos : (s.writeWindow w bs).inPos = s.inPos := rfl
@[simp] theorem writeWindow_outBytes : (s.writeWindow w bs).outBytes = s.outBytes := rfl
@[simp] theorem writeWindow_renderEvents : (s.writeWindow w bs).renderEvents = s.renderEvents := rfl
@[simp] theorem writeWindow_hostQueue : (s.writeWindow w bs).hostQueue = s.hostQueue := rfl
@[simp] theorem writeWindow_hostReads : (s.writeWindow w bs).hostReads = s.hostReads := rfl
@[simp] theorem writeWindow_draws : (s.writeWindow w bs).draws = s.draws := rfl

end writeWindow

section nextDraw

variable (s : State)

@[simp] theorem nextDraw_cfg : (s.nextDraw).cfg = s.cfg := rfl
@[simp] theorem nextDraw_cmd : (s.nextDraw).cmd = s.cmd := rfl
@[simp] theorem nextDraw_status : (s.nextDraw).status = s.status := rfl
@[simp] theorem nextDraw_cfgWindow : (s.nextDraw).cfgWindow = s.cfgWindow := rfl
@[simp] theorem nextDraw_clipFrames : (s.nextDraw).clipFrames = s.clipFrames := rfl
@[simp] theorem nextDraw_encBytes : (s.nextDraw).encBytes = s.encBytes := rfl
@[simp] theorem nextDraw_crcResult : (s.nextDraw).crcResult = s.crcResult := rfl
@[simp] theorem nextDraw_crcExpect : (s.nextDraw).crcExpect = s.crcExpect := rfl
@[simp] theorem nextDraw_decHdr : (s.nextDraw).decHdr = s.decHdr := rfl
@[simp] theorem nextDraw_runLen : (s.nextDraw).runLen = s.runLen := rfl
@[simp] theorem nextDraw_runPos : (s.nextDraw).runPos = s.runPos := rfl
@[simp] theorem nextDraw_selHasPrev : (s.nextDraw).selHasPrev = s.selHasPrev := rfl
@[simp] theorem nextDraw_nzCount : (s.nextDraw).nzCount = s.nzCount := rfl
@[simp] theorem nextDraw_majL : (s.nextDraw).majL = s.majL := rfl
@[simp] theorem nextDraw_majR : (s.nextDraw).majR = s.majR := rfl
@[simp] theorem nextDraw_whiteL : (s.nextDraw).whiteL = s.whiteL := rfl
@[simp] theorem nextDraw_whiteR : (s.nextDraw).whiteR = s.whiteR := rfl
@[simp] theorem nextDraw_hdrArg : (s.nextDraw).hdrArg = s.hdrArg := rfl
@[simp] theorem nextDraw_decConsumed : (s.nextDraw).decConsumed = s.decConsumed := rfl
@[simp] theorem nextDraw_mem : (s.nextDraw).mem = s.mem := rfl
@[simp] theorem nextDraw_cacheValid : (s.nextDraw).cacheValid = s.cacheValid := rfl
@[simp] theorem nextDraw_work : (s.nextDraw).work = s.work := rfl
@[simp] theorem nextDraw_phase : (s.nextDraw).phase = s.phase := rfl
@[simp] theorem nextDraw_inBytes : (s.nextDraw).inBytes = s.inBytes := rfl
@[simp] theorem nextDraw_inPos : (s.nextDraw).inPos = s.inPos := rfl
@[simp] theorem nextDraw_outBytes : (s.nextDraw).outBytes = s.outBytes := rfl
@[simp] theorem nextDraw_renderEvents : (s.nextDraw).renderEvents = s.renderEvents := rfl
@[simp] theorem nextDraw_hostQueue : (s.nextDraw).hostQueue = s.hostQueue := rfl
@[simp] theorem nextDraw_hostReads : (s.nextDraw).hostReads = s.hostReads := rfl
@[simp] theorem nextDraw_draws : (s.nextDraw).draws = s.draws + 1 := rfl

end nextDraw

section complete

variable (s : State) (ok : Bool)

@[simp] theorem complete_cfg : (s.complete ok).cfg = s.cfg := rfl
@[simp] theorem complete_cmd : (s.complete ok).cmd = s.cmd := rfl
@[simp] theorem complete_status : (s.complete ok).status = { s.status with ok := ok, illegal := false } := rfl
@[simp] theorem complete_cfgWindow : (s.complete ok).cfgWindow = s.cfgWindow := rfl
@[simp] theorem complete_clipFrames : (s.complete ok).clipFrames = s.clipFrames := rfl
@[simp] theorem complete_encBytes : (s.complete ok).encBytes = s.encBytes := rfl
@[simp] theorem complete_crcResult : (s.complete ok).crcResult = s.crcResult := rfl
@[simp] theorem complete_crcExpect : (s.complete ok).crcExpect = s.crcExpect := rfl
@[simp] theorem complete_decHdr : (s.complete ok).decHdr = s.decHdr := rfl
@[simp] theorem complete_runLen : (s.complete ok).runLen = s.runLen := rfl
@[simp] theorem complete_runPos : (s.complete ok).runPos = s.runPos := rfl
@[simp] theorem complete_selHasPrev : (s.complete ok).selHasPrev = s.selHasPrev := rfl
@[simp] theorem complete_nzCount : (s.complete ok).nzCount = s.nzCount := rfl
@[simp] theorem complete_majL : (s.complete ok).majL = s.majL := rfl
@[simp] theorem complete_majR : (s.complete ok).majR = s.majR := rfl
@[simp] theorem complete_whiteL : (s.complete ok).whiteL = s.whiteL := rfl
@[simp] theorem complete_whiteR : (s.complete ok).whiteR = s.whiteR := rfl
@[simp] theorem complete_hdrArg : (s.complete ok).hdrArg = s.hdrArg := rfl
@[simp] theorem complete_decConsumed : (s.complete ok).decConsumed = s.decConsumed := rfl
@[simp] theorem complete_mem : (s.complete ok).mem = s.mem := rfl
@[simp] theorem complete_cacheValid : (s.complete ok).cacheValid = s.cacheValid := rfl
@[simp] theorem complete_work : (s.complete ok).work = s.work := rfl
@[simp] theorem complete_phase : (s.complete ok).phase = s.phase := rfl
@[simp] theorem complete_inBytes : (s.complete ok).inBytes = s.inBytes := rfl
@[simp] theorem complete_inPos : (s.complete ok).inPos = s.inPos := rfl
@[simp] theorem complete_outBytes : (s.complete ok).outBytes = s.outBytes := rfl
@[simp] theorem complete_renderEvents : (s.complete ok).renderEvents = s.renderEvents := rfl
@[simp] theorem complete_hostQueue : (s.complete ok).hostQueue = s.hostQueue := rfl
@[simp] theorem complete_hostReads : (s.complete ok).hostReads = s.hostReads := rfl
@[simp] theorem complete_draws : (s.complete ok).draws = s.draws := rfl

end complete

section advanceInput

variable (s : State) (k : Nat)

@[simp] theorem advanceInput_cfg : (s.advanceInput k).cfg = s.cfg := rfl
@[simp] theorem advanceInput_cmd : (s.advanceInput k).cmd = s.cmd := rfl
@[simp] theorem advanceInput_status : (s.advanceInput k).status = s.status := rfl
@[simp] theorem advanceInput_cfgWindow : (s.advanceInput k).cfgWindow = s.cfgWindow := rfl
@[simp] theorem advanceInput_clipFrames : (s.advanceInput k).clipFrames = s.clipFrames := rfl
@[simp] theorem advanceInput_encBytes : (s.advanceInput k).encBytes = s.encBytes := rfl
@[simp] theorem advanceInput_crcResult : (s.advanceInput k).crcResult = s.crcResult := rfl
@[simp] theorem advanceInput_crcExpect : (s.advanceInput k).crcExpect = s.crcExpect := rfl
@[simp] theorem advanceInput_decHdr : (s.advanceInput k).decHdr = s.decHdr := rfl
@[simp] theorem advanceInput_runLen : (s.advanceInput k).runLen = s.runLen := rfl
@[simp] theorem advanceInput_runPos : (s.advanceInput k).runPos = s.runPos := rfl
@[simp] theorem advanceInput_selHasPrev : (s.advanceInput k).selHasPrev = s.selHasPrev := rfl
@[simp] theorem advanceInput_nzCount : (s.advanceInput k).nzCount = s.nzCount := rfl
@[simp] theorem advanceInput_majL : (s.advanceInput k).majL = s.majL := rfl
@[simp] theorem advanceInput_majR : (s.advanceInput k).majR = s.majR := rfl
@[simp] theorem advanceInput_whiteL : (s.advanceInput k).whiteL = s.whiteL := rfl
@[simp] theorem advanceInput_whiteR : (s.advanceInput k).whiteR = s.whiteR := rfl
@[simp] theorem advanceInput_hdrArg : (s.advanceInput k).hdrArg = s.hdrArg := rfl
@[simp] theorem advanceInput_decConsumed : (s.advanceInput k).decConsumed = s.decConsumed := rfl
@[simp] theorem advanceInput_mem : (s.advanceInput k).mem = s.mem := rfl
@[simp] theorem advanceInput_cacheValid : (s.advanceInput k).cacheValid = s.cacheValid := rfl
@[simp] theorem advanceInput_work : (s.advanceInput k).work = s.work := rfl
@[simp] theorem advanceInput_phase : (s.advanceInput k).phase = s.phase := rfl
@[simp] theorem advanceInput_inBytes : (s.advanceInput k).inBytes = s.inBytes := rfl
@[simp] theorem advanceInput_inPos : (s.advanceInput k).inPos = s.inPos + k := rfl
@[simp] theorem advanceInput_outBytes : (s.advanceInput k).outBytes = s.outBytes := rfl
@[simp] theorem advanceInput_renderEvents : (s.advanceInput k).renderEvents = s.renderEvents := rfl
@[simp] theorem advanceInput_hostQueue : (s.advanceInput k).hostQueue = s.hostQueue := rfl
@[simp] theorem advanceInput_hostReads : (s.advanceInput k).hostReads = s.hostReads := rfl
@[simp] theorem advanceInput_draws : (s.advanceInput k).draws = s.draws := rfl

end advanceInput

section inSeek0

variable (s : State)

@[simp] theorem inSeek0_cfg : (s.inSeek0).cfg = s.cfg := rfl
@[simp] theorem inSeek0_cmd : (s.inSeek0).cmd = s.cmd := rfl
@[simp] theorem inSeek0_status : (s.inSeek0).status = s.status := rfl
@[simp] theorem inSeek0_cfgWindow : (s.inSeek0).cfgWindow = s.cfgWindow := rfl
@[simp] theorem inSeek0_clipFrames : (s.inSeek0).clipFrames = s.clipFrames := rfl
@[simp] theorem inSeek0_encBytes : (s.inSeek0).encBytes = s.encBytes := rfl
@[simp] theorem inSeek0_crcResult : (s.inSeek0).crcResult = s.crcResult := rfl
@[simp] theorem inSeek0_crcExpect : (s.inSeek0).crcExpect = s.crcExpect := rfl
@[simp] theorem inSeek0_decHdr : (s.inSeek0).decHdr = s.decHdr := rfl
@[simp] theorem inSeek0_runLen : (s.inSeek0).runLen = s.runLen := rfl
@[simp] theorem inSeek0_runPos : (s.inSeek0).runPos = s.runPos := rfl
@[simp] theorem inSeek0_selHasPrev : (s.inSeek0).selHasPrev = s.selHasPrev := rfl
@[simp] theorem inSeek0_nzCount : (s.inSeek0).nzCount = s.nzCount := rfl
@[simp] theorem inSeek0_majL : (s.inSeek0).majL = s.majL := rfl
@[simp] theorem inSeek0_majR : (s.inSeek0).majR = s.majR := rfl
@[simp] theorem inSeek0_whiteL : (s.inSeek0).whiteL = s.whiteL := rfl
@[simp] theorem inSeek0_whiteR : (s.inSeek0).whiteR = s.whiteR := rfl
@[simp] theorem inSeek0_hdrArg : (s.inSeek0).hdrArg = s.hdrArg := rfl
@[simp] theorem inSeek0_decConsumed : (s.inSeek0).decConsumed = s.decConsumed := rfl
@[simp] theorem inSeek0_mem : (s.inSeek0).mem = s.mem := rfl
@[simp] theorem inSeek0_cacheValid : (s.inSeek0).cacheValid = s.cacheValid := rfl
@[simp] theorem inSeek0_work : (s.inSeek0).work = s.work := rfl
@[simp] theorem inSeek0_phase : (s.inSeek0).phase = s.phase := rfl
@[simp] theorem inSeek0_inBytes : (s.inSeek0).inBytes = s.inBytes := rfl
@[simp] theorem inSeek0_inPos : (s.inSeek0).inPos = 0 := rfl
@[simp] theorem inSeek0_outBytes : (s.inSeek0).outBytes = s.outBytes := rfl
@[simp] theorem inSeek0_renderEvents : (s.inSeek0).renderEvents = s.renderEvents := rfl
@[simp] theorem inSeek0_hostQueue : (s.inSeek0).hostQueue = s.hostQueue := rfl
@[simp] theorem inSeek0_hostReads : (s.inSeek0).hostReads = s.hostReads := rfl
@[simp] theorem inSeek0_draws : (s.inSeek0).draws = s.draws := rfl

end inSeek0

section outWrite

variable (s : State) (bs : List Byte)

@[simp] theorem outWrite_cfg : (s.outWrite bs).cfg = s.cfg := rfl
@[simp] theorem outWrite_cmd : (s.outWrite bs).cmd = s.cmd := rfl
@[simp] theorem outWrite_status : (s.outWrite bs).status = s.status := rfl
@[simp] theorem outWrite_cfgWindow : (s.outWrite bs).cfgWindow = s.cfgWindow := rfl
@[simp] theorem outWrite_clipFrames : (s.outWrite bs).clipFrames = s.clipFrames := rfl
@[simp] theorem outWrite_encBytes : (s.outWrite bs).encBytes = s.encBytes := rfl
@[simp] theorem outWrite_crcResult : (s.outWrite bs).crcResult = s.crcResult := rfl
@[simp] theorem outWrite_crcExpect : (s.outWrite bs).crcExpect = s.crcExpect := rfl
@[simp] theorem outWrite_decHdr : (s.outWrite bs).decHdr = s.decHdr := rfl
@[simp] theorem outWrite_runLen : (s.outWrite bs).runLen = s.runLen := rfl
@[simp] theorem outWrite_runPos : (s.outWrite bs).runPos = s.runPos := rfl
@[simp] theorem outWrite_selHasPrev : (s.outWrite bs).selHasPrev = s.selHasPrev := rfl
@[simp] theorem outWrite_nzCount : (s.outWrite bs).nzCount = s.nzCount := rfl
@[simp] theorem outWrite_majL : (s.outWrite bs).majL = s.majL := rfl
@[simp] theorem outWrite_majR : (s.outWrite bs).majR = s.majR := rfl
@[simp] theorem outWrite_whiteL : (s.outWrite bs).whiteL = s.whiteL := rfl
@[simp] theorem outWrite_whiteR : (s.outWrite bs).whiteR = s.whiteR := rfl
@[simp] theorem outWrite_hdrArg : (s.outWrite bs).hdrArg = s.hdrArg := rfl
@[simp] theorem outWrite_decConsumed : (s.outWrite bs).decConsumed = s.decConsumed := rfl
@[simp] theorem outWrite_mem : (s.outWrite bs).mem = s.mem := rfl
@[simp] theorem outWrite_cacheValid : (s.outWrite bs).cacheValid = s.cacheValid := rfl
@[simp] theorem outWrite_work : (s.outWrite bs).work = s.work := rfl
@[simp] theorem outWrite_phase : (s.outWrite bs).phase = s.phase := rfl
@[simp] theorem outWrite_inBytes : (s.outWrite bs).inBytes = s.inBytes := rfl
@[simp] theorem outWrite_inPos : (s.outWrite bs).inPos = s.inPos := rfl
@[simp] theorem outWrite_outBytes : (s.outWrite bs).outBytes = s.outBytes ++ bs := rfl
@[simp] theorem outWrite_renderEvents : (s.outWrite bs).renderEvents = s.renderEvents := rfl
@[simp] theorem outWrite_hostQueue : (s.outWrite bs).hostQueue = s.hostQueue := rfl
@[simp] theorem outWrite_hostReads : (s.outWrite bs).hostReads = s.hostReads := rfl
@[simp] theorem outWrite_draws : (s.outWrite bs).draws = s.draws := rfl

end outWrite

section render

variable (s : State) (e : RenderEvent)

@[simp] theorem render_cfg : (s.render e).cfg = s.cfg := rfl
@[simp] theorem render_cmd : (s.render e).cmd = s.cmd := rfl
@[simp] theorem render_status : (s.render e).status = s.status := rfl
@[simp] theorem render_cfgWindow : (s.render e).cfgWindow = s.cfgWindow := rfl
@[simp] theorem render_clipFrames : (s.render e).clipFrames = s.clipFrames := rfl
@[simp] theorem render_encBytes : (s.render e).encBytes = s.encBytes := rfl
@[simp] theorem render_crcResult : (s.render e).crcResult = s.crcResult := rfl
@[simp] theorem render_crcExpect : (s.render e).crcExpect = s.crcExpect := rfl
@[simp] theorem render_decHdr : (s.render e).decHdr = s.decHdr := rfl
@[simp] theorem render_runLen : (s.render e).runLen = s.runLen := rfl
@[simp] theorem render_runPos : (s.render e).runPos = s.runPos := rfl
@[simp] theorem render_selHasPrev : (s.render e).selHasPrev = s.selHasPrev := rfl
@[simp] theorem render_nzCount : (s.render e).nzCount = s.nzCount := rfl
@[simp] theorem render_majL : (s.render e).majL = s.majL := rfl
@[simp] theorem render_majR : (s.render e).majR = s.majR := rfl
@[simp] theorem render_whiteL : (s.render e).whiteL = s.whiteL := rfl
@[simp] theorem render_whiteR : (s.render e).whiteR = s.whiteR := rfl
@[simp] theorem render_hdrArg : (s.render e).hdrArg = s.hdrArg := rfl
@[simp] theorem render_decConsumed : (s.render e).decConsumed = s.decConsumed := rfl
@[simp] theorem render_mem : (s.render e).mem = s.mem := rfl
@[simp] theorem render_cacheValid : (s.render e).cacheValid = s.cacheValid := rfl
@[simp] theorem render_work : (s.render e).work = s.work := rfl
@[simp] theorem render_phase : (s.render e).phase = s.phase := rfl
@[simp] theorem render_inBytes : (s.render e).inBytes = s.inBytes := rfl
@[simp] theorem render_inPos : (s.render e).inPos = s.inPos := rfl
@[simp] theorem render_outBytes : (s.render e).outBytes = s.outBytes := rfl
@[simp] theorem render_renderEvents : (s.render e).renderEvents = s.renderEvents ++ [e] := rfl
@[simp] theorem render_hostQueue : (s.render e).hostQueue = s.hostQueue := rfl
@[simp] theorem render_hostReads : (s.render e).hostReads = s.hostReads := rfl
@[simp] theorem render_draws : (s.render e).draws = s.draws := rfl

end render

section enterPhase

variable (s : State) (p : Phase)

@[simp] theorem enterPhase_cfg : (s.enterPhase p).cfg = s.cfg := rfl
@[simp] theorem enterPhase_cmd : (s.enterPhase p).cmd = s.cmd := rfl
@[simp] theorem enterPhase_status : (s.enterPhase p).status = s.status := rfl
@[simp] theorem enterPhase_cfgWindow : (s.enterPhase p).cfgWindow = s.cfgWindow := rfl
@[simp] theorem enterPhase_clipFrames : (s.enterPhase p).clipFrames = s.clipFrames := rfl
@[simp] theorem enterPhase_encBytes : (s.enterPhase p).encBytes = s.encBytes := rfl
@[simp] theorem enterPhase_crcResult : (s.enterPhase p).crcResult = s.crcResult := rfl
@[simp] theorem enterPhase_crcExpect : (s.enterPhase p).crcExpect = s.crcExpect := rfl
@[simp] theorem enterPhase_decHdr : (s.enterPhase p).decHdr = s.decHdr := rfl
@[simp] theorem enterPhase_runLen : (s.enterPhase p).runLen = s.runLen := rfl
@[simp] theorem enterPhase_runPos : (s.enterPhase p).runPos = s.runPos := rfl
@[simp] theorem enterPhase_selHasPrev : (s.enterPhase p).selHasPrev = s.selHasPrev := rfl
@[simp] theorem enterPhase_nzCount : (s.enterPhase p).nzCount = s.nzCount := rfl
@[simp] theorem enterPhase_majL : (s.enterPhase p).majL = s.majL := rfl
@[simp] theorem enterPhase_majR : (s.enterPhase p).majR = s.majR := rfl
@[simp] theorem enterPhase_whiteL : (s.enterPhase p).whiteL = s.whiteL := rfl
@[simp] theorem enterPhase_whiteR : (s.enterPhase p).whiteR = s.whiteR := rfl
@[simp] theorem enterPhase_hdrArg : (s.enterPhase p).hdrArg = s.hdrArg := rfl
@[simp] theorem enterPhase_decConsumed : (s.enterPhase p).decConsumed = s.decConsumed := rfl
@[simp] theorem enterPhase_mem : (s.enterPhase p).mem = s.mem := rfl
@[simp] theorem enterPhase_cacheValid : (s.enterPhase p).cacheValid = s.cacheValid := rfl
@[simp] theorem enterPhase_work : (s.enterPhase p).work = s.work := rfl
@[simp] theorem enterPhase_phase : (s.enterPhase p).phase = p := rfl
@[simp] theorem enterPhase_inBytes : (s.enterPhase p).inBytes = s.inBytes := rfl
@[simp] theorem enterPhase_inPos : (s.enterPhase p).inPos = s.inPos := rfl
@[simp] theorem enterPhase_outBytes : (s.enterPhase p).outBytes = s.outBytes := rfl
@[simp] theorem enterPhase_renderEvents : (s.enterPhase p).renderEvents = s.renderEvents := rfl
@[simp] theorem enterPhase_hostQueue : (s.enterPhase p).hostQueue = s.hostQueue := rfl
@[simp] theorem enterPhase_hostReads : (s.enterPhase p).hostReads = s.hostReads := rfl
@[simp] theorem enterPhase_draws : (s.enterPhase p).draws = s.draws := rfl

end enterPhase

section setWork

variable (s : State) (bs : List Byte)

@[simp] theorem setWork_cfg : (s.setWork bs).cfg = s.cfg := rfl
@[simp] theorem setWork_cmd : (s.setWork bs).cmd = s.cmd := rfl
@[simp] theorem setWork_status : (s.setWork bs).status = s.status := rfl
@[simp] theorem setWork_cfgWindow : (s.setWork bs).cfgWindow = s.cfgWindow := rfl
@[simp] theorem setWork_clipFrames : (s.setWork bs).clipFrames = s.clipFrames := rfl
@[simp] theorem setWork_encBytes : (s.setWork bs).encBytes = s.encBytes := rfl
@[simp] theorem setWork_crcResult : (s.setWork bs).crcResult = s.crcResult := rfl
@[simp] theorem setWork_crcExpect : (s.setWork bs).crcExpect = s.crcExpect := rfl
@[simp] theorem setWork_decHdr : (s.setWork bs).decHdr = s.decHdr := rfl
@[simp] theorem setWork_runLen : (s.setWork bs).runLen = s.runLen := rfl
@[simp] theorem setWork_runPos : (s.setWork bs).runPos = s.runPos := rfl
@[simp] theorem setWork_selHasPrev : (s.setWork bs).selHasPrev = s.selHasPrev := rfl
@[simp] theorem setWork_nzCount : (s.setWork bs).nzCount = s.nzCount := rfl
@[simp] theorem setWork_majL : (s.setWork bs).majL = s.majL := rfl
@[simp] theorem setWork_majR : (s.setWork bs).majR = s.majR := rfl
@[simp] theorem setWork_whiteL : (s.setWork bs).whiteL = s.whiteL := rfl
@[simp] theorem setWork_whiteR : (s.setWork bs).whiteR = s.whiteR := rfl
@[simp] theorem setWork_hdrArg : (s.setWork bs).hdrArg = s.hdrArg := rfl
@[simp] theorem setWork_decConsumed : (s.setWork bs).decConsumed = s.decConsumed := rfl
@[simp] theorem setWork_mem : (s.setWork bs).mem = s.mem := rfl
@[simp] theorem setWork_cacheValid : (s.setWork bs).cacheValid = s.cacheValid := rfl
@[simp] theorem setWork_work : (s.setWork bs).work = bs := rfl
@[simp] theorem setWork_phase : (s.setWork bs).phase = s.phase := rfl
@[simp] theorem setWork_inBytes : (s.setWork bs).inBytes = s.inBytes := rfl
@[simp] theorem setWork_inPos : (s.setWork bs).inPos = s.inPos := rfl
@[simp] theorem setWork_outBytes : (s.setWork bs).outBytes = s.outBytes := rfl
@[simp] theorem setWork_renderEvents : (s.setWork bs).renderEvents = s.renderEvents := rfl
@[simp] theorem setWork_hostQueue : (s.setWork bs).hostQueue = s.hostQueue := rfl
@[simp] theorem setWork_hostReads : (s.setWork bs).hostReads = s.hostReads := rfl
@[simp] theorem setWork_draws : (s.setWork bs).draws = s.draws := rfl

end setWork

section setCrc

variable (s : State) (c : Half)

@[simp] theorem setCrc_cfg : (s.setCrc c).cfg = s.cfg := rfl
@[simp] theorem setCrc_cmd : (s.setCrc c).cmd = s.cmd := rfl
@[simp] theorem setCrc_status : (s.setCrc c).status = s.status := rfl
@[simp] theorem setCrc_cfgWindow : (s.setCrc c).cfgWindow = s.cfgWindow := rfl
@[simp] theorem setCrc_clipFrames : (s.setCrc c).clipFrames = s.clipFrames := rfl
@[simp] theorem setCrc_encBytes : (s.setCrc c).encBytes = s.encBytes := rfl
@[simp] theorem setCrc_crcResult : (s.setCrc c).crcResult = c := rfl
@[simp] theorem setCrc_crcExpect : (s.setCrc c).crcExpect = s.crcExpect := rfl
@[simp] theorem setCrc_decHdr : (s.setCrc c).decHdr = s.decHdr := rfl
@[simp] theorem setCrc_runLen : (s.setCrc c).runLen = s.runLen := rfl
@[simp] theorem setCrc_runPos : (s.setCrc c).runPos = s.runPos := rfl
@[simp] theorem setCrc_selHasPrev : (s.setCrc c).selHasPrev = s.selHasPrev := rfl
@[simp] theorem setCrc_nzCount : (s.setCrc c).nzCount = s.nzCount := rfl
@[simp] theorem setCrc_majL : (s.setCrc c).majL = s.majL := rfl
@[simp] theorem setCrc_majR : (s.setCrc c).majR = s.majR := rfl
@[simp] theorem setCrc_whiteL : (s.setCrc c).whiteL = s.whiteL := rfl
@[simp] theorem setCrc_whiteR : (s.setCrc c).whiteR = s.whiteR := rfl
@[simp] theorem setCrc_hdrArg : (s.setCrc c).hdrArg = s.hdrArg := rfl
@[simp] theorem setCrc_decConsumed : (s.setCrc c).decConsumed = s.decConsumed := rfl
@[simp] theorem setCrc_mem : (s.setCrc c).mem = s.mem := rfl
@[simp] theorem setCrc_cacheValid : (s.setCrc c).cacheValid = s.cacheValid := rfl
@[simp] theorem setCrc_work : (s.setCrc c).work = s.work := rfl
@[simp] theorem setCrc_phase : (s.setCrc c).phase = s.phase := rfl
@[simp] theorem setCrc_inBytes : (s.setCrc c).inBytes = s.inBytes := rfl
@[simp] theorem setCrc_inPos : (s.setCrc c).inPos = s.inPos := rfl
@[simp] theorem setCrc_outBytes : (s.setCrc c).outBytes = s.outBytes := rfl
@[simp] theorem setCrc_renderEvents : (s.setCrc c).renderEvents = s.renderEvents := rfl
@[simp] theorem setCrc_hostQueue : (s.setCrc c).hostQueue = s.hostQueue := rfl
@[simp] theorem setCrc_hostReads : (s.setCrc c).hostReads = s.hostReads := rfl
@[simp] theorem setCrc_draws : (s.setCrc c).draws = s.draws := rfl

end setCrc

section illegalCommand

variable (s : State)

@[simp] theorem illegalCommand_cfg : (s.illegalCommand).cfg = s.cfg := rfl
@[simp] theorem illegalCommand_cmd : (s.illegalCommand).cmd = s.cmd := rfl
@[simp] theorem illegalCommand_status : (s.illegalCommand).status = { s.status with illegal := true, ok := false } := rfl
@[simp] theorem illegalCommand_cfgWindow : (s.illegalCommand).cfgWindow = s.cfgWindow := rfl
@[simp] theorem illegalCommand_clipFrames : (s.illegalCommand).clipFrames = s.clipFrames := rfl
@[simp] theorem illegalCommand_encBytes : (s.illegalCommand).encBytes = s.encBytes := rfl
@[simp] theorem illegalCommand_crcResult : (s.illegalCommand).crcResult = s.crcResult := rfl
@[simp] theorem illegalCommand_crcExpect : (s.illegalCommand).crcExpect = s.crcExpect := rfl
@[simp] theorem illegalCommand_decHdr : (s.illegalCommand).decHdr = s.decHdr := rfl
@[simp] theorem illegalCommand_runLen : (s.illegalCommand).runLen = s.runLen := rfl
@[simp] theorem illegalCommand_runPos : (s.illegalCommand).runPos = s.runPos := rfl
@[simp] theorem illegalCommand_selHasPrev : (s.illegalCommand).selHasPrev = s.selHasPrev := rfl
@[simp] theorem illegalCommand_nzCount : (s.illegalCommand).nzCount = s.nzCount := rfl
@[simp] theorem illegalCommand_majL : (s.illegalCommand).majL = s.majL := rfl
@[simp] theorem illegalCommand_majR : (s.illegalCommand).majR = s.majR := rfl
@[simp] theorem illegalCommand_whiteL : (s.illegalCommand).whiteL = s.whiteL := rfl
@[simp] theorem illegalCommand_whiteR : (s.illegalCommand).whiteR = s.whiteR := rfl
@[simp] theorem illegalCommand_hdrArg : (s.illegalCommand).hdrArg = s.hdrArg := rfl
@[simp] theorem illegalCommand_decConsumed : (s.illegalCommand).decConsumed = s.decConsumed := rfl
@[simp] theorem illegalCommand_mem : (s.illegalCommand).mem = s.mem := rfl
@[simp] theorem illegalCommand_cacheValid : (s.illegalCommand).cacheValid = s.cacheValid := rfl
@[simp] theorem illegalCommand_work : (s.illegalCommand).work = s.work := rfl
@[simp] theorem illegalCommand_phase : (s.illegalCommand).phase = s.phase := rfl
@[simp] theorem illegalCommand_inBytes : (s.illegalCommand).inBytes = s.inBytes := rfl
@[simp] theorem illegalCommand_inPos : (s.illegalCommand).inPos = s.inPos := rfl
@[simp] theorem illegalCommand_outBytes : (s.illegalCommand).outBytes = s.outBytes := rfl
@[simp] theorem illegalCommand_renderEvents : (s.illegalCommand).renderEvents = s.renderEvents := rfl
@[simp] theorem illegalCommand_hostQueue : (s.illegalCommand).hostQueue = s.hostQueue := rfl
@[simp] theorem illegalCommand_hostReads : (s.illegalCommand).hostReads = s.hostReads := rfl
@[simp] theorem illegalCommand_draws : (s.illegalCommand).draws = s.draws := rfl

end illegalCommand

section decodeFail

variable (s : State) (k : FailKind) (p : WorkPhase) (n : Nat)

@[simp] theorem decodeFail_cfg : (s.decodeFail k p n).cfg = s.cfg := rfl
@[simp] theorem decodeFail_cmd : (s.decodeFail k p n).cmd = s.cmd := rfl
@[simp] theorem decodeFail_status : (s.decodeFail k p n).status = { s.status with produced := false, ok := false, illegal := false, decErr := some k, failPhase := some p, truncAtBoundary := decide (k = .streamTruncated ∧ p = .awaitingHeader) } := rfl
@[simp] theorem decodeFail_cfgWindow : (s.decodeFail k p n).cfgWindow = s.cfgWindow := rfl
@[simp] theorem decodeFail_clipFrames : (s.decodeFail k p n).clipFrames = s.clipFrames := rfl
@[simp] theorem decodeFail_encBytes : (s.decodeFail k p n).encBytes = s.encBytes := rfl
@[simp] theorem decodeFail_crcResult : (s.decodeFail k p n).crcResult = s.crcResult := rfl
@[simp] theorem decodeFail_crcExpect : (s.decodeFail k p n).crcExpect = s.crcExpect := rfl
@[simp] theorem decodeFail_decHdr : (s.decodeFail k p n).decHdr = s.decHdr := rfl
@[simp] theorem decodeFail_runLen : (s.decodeFail k p n).runLen = s.runLen := rfl
@[simp] theorem decodeFail_runPos : (s.decodeFail k p n).runPos = s.runPos := rfl
@[simp] theorem decodeFail_selHasPrev : (s.decodeFail k p n).selHasPrev = s.selHasPrev := rfl
@[simp] theorem decodeFail_nzCount : (s.decodeFail k p n).nzCount = s.nzCount := rfl
@[simp] theorem decodeFail_majL : (s.decodeFail k p n).majL = s.majL := rfl
@[simp] theorem decodeFail_majR : (s.decodeFail k p n).majR = s.majR := rfl
@[simp] theorem decodeFail_whiteL : (s.decodeFail k p n).whiteL = s.whiteL := rfl
@[simp] theorem decodeFail_whiteR : (s.decodeFail k p n).whiteR = s.whiteR := rfl
@[simp] theorem decodeFail_hdrArg : (s.decodeFail k p n).hdrArg = s.hdrArg := rfl
@[simp] theorem decodeFail_decConsumed : (s.decodeFail k p n).decConsumed = consumedWord (s.inPos - n) := rfl
@[simp] theorem decodeFail_mem : (s.decodeFail k p n).mem = s.mem := rfl
@[simp] theorem decodeFail_cacheValid : (s.decodeFail k p n).cacheValid = if s.cfg.failPolicy = .invalidate then false else s.cacheValid := rfl
@[simp] theorem decodeFail_work : (s.decodeFail k p n).work = [] := rfl
@[simp] theorem decodeFail_phase : (s.decodeFail k p n).phase = .failed := rfl
@[simp] theorem decodeFail_inBytes : (s.decodeFail k p n).inBytes = s.inBytes := rfl
@[simp] theorem decodeFail_inPos : (s.decodeFail k p n).inPos = s.inPos := rfl
@[simp] theorem decodeFail_outBytes : (s.decodeFail k p n).outBytes = s.outBytes := rfl
@[simp] theorem decodeFail_renderEvents : (s.decodeFail k p n).renderEvents = s.renderEvents := rfl
@[simp] theorem decodeFail_hostQueue : (s.decodeFail k p n).hostQueue = s.hostQueue := rfl
@[simp] theorem decodeFail_hostReads : (s.decodeFail k p n).hostReads = s.hostReads := rfl
@[simp] theorem decodeFail_draws : (s.decodeFail k p n).draws = s.draws := rfl

end decodeFail

section decodeCommit

variable (s : State) (h : Byte) (n : Nat)

@[simp] theorem decodeCommit_cfg : (s.decodeCommit h n).cfg = s.cfg := rfl
@[simp] theorem decodeCommit_cmd : (s.decodeCommit h n).cmd = s.cmd := rfl
@[simp] theorem decodeCommit_status : (s.decodeCommit h n).status = { s.status with produced := true, ok := true, illegal := false, decErr := none, failPhase := none, truncAtBoundary := false } := rfl
@[simp] theorem decodeCommit_cfgWindow : (s.decodeCommit h n).cfgWindow = s.cfgWindow := rfl
@[simp] theorem decodeCommit_clipFrames : (s.decodeCommit h n).clipFrames = s.clipFrames := rfl
@[simp] theorem decodeCommit_encBytes : (s.decodeCommit h n).encBytes = s.encBytes := rfl
@[simp] theorem decodeCommit_crcResult : (s.decodeCommit h n).crcResult = s.crcResult := rfl
@[simp] theorem decodeCommit_crcExpect : (s.decodeCommit h n).crcExpect = s.crcExpect := rfl
@[simp] theorem decodeCommit_decHdr : (s.decodeCommit h n).decHdr = h := rfl
@[simp] theorem decodeCommit_runLen : (s.decodeCommit h n).runLen = s.runLen := rfl
@[simp] theorem decodeCommit_runPos : (s.decodeCommit h n).runPos = s.runPos := rfl
@[simp] theorem decodeCommit_selHasPrev : (s.decodeCommit h n).selHasPrev = s.selHasPrev := rfl
@[simp] theorem decodeCommit_nzCount : (s.decodeCommit h n).nzCount = s.nzCount := rfl
@[simp] theorem decodeCommit_majL : (s.decodeCommit h n).majL = s.majL := rfl
@[simp] theorem decodeCommit_majR : (s.decodeCommit h n).majR = s.majR := rfl
@[simp] theorem decodeCommit_whiteL : (s.decodeCommit h n).whiteL = s.whiteL := rfl
@[simp] theorem decodeCommit_whiteR : (s.decodeCommit h n).whiteR = s.whiteR := rfl
@[simp] theorem decodeCommit_hdrArg : (s.decodeCommit h n).hdrArg = s.hdrArg := rfl
@[simp] theorem decodeCommit_decConsumed : (s.decodeCommit h n).decConsumed = consumedWord (s.inPos - n) := rfl
@[simp] theorem decodeCommit_mem : (s.decodeCommit h n).mem = s.mem.write Window.cache.base s.work := rfl
@[simp] theorem decodeCommit_cacheValid : (s.decodeCommit h n).cacheValid = true := rfl
@[simp] theorem decodeCommit_work : (s.decodeCommit h n).work = [] := rfl
@[simp] theorem decodeCommit_phase : (s.decodeCommit h n).phase = .committed := rfl
@[simp] theorem decodeCommit_inBytes : (s.decodeCommit h n).inBytes = s.inBytes := rfl
@[simp] theorem decodeCommit_inPos : (s.decodeCommit h n).inPos = s.inPos := rfl
@[simp] theorem decodeCommit_outBytes : (s.decodeCommit h n).outBytes = s.outBytes := rfl
@[simp] theorem decodeCommit_renderEvents : (s.decodeCommit h n).renderEvents = s.renderEvents ++ [⟨outFrame s.cfg.outConv s.work, h.getLsbD 0, h.getLsbD 1⟩] := rfl
@[simp] theorem decodeCommit_hostQueue : (s.decodeCommit h n).hostQueue = s.hostQueue := rfl
@[simp] theorem decodeCommit_hostReads : (s.decodeCommit h n).hostReads = s.hostReads := rfl
@[simp] theorem decodeCommit_draws : (s.decodeCommit h n).draws = s.draws := rfl

end decodeCommit

section resetRegisters

variable (s : State)

@[simp] theorem resetRegisters_cfg : (s.resetRegisters).cfg = s.cfg := rfl
@[simp] theorem resetRegisters_cmd : (s.resetRegisters).cmd = 0 := rfl
@[simp] theorem resetRegisters_status : (s.resetRegisters).status = Status.cleared := rfl
@[simp] theorem resetRegisters_cfgWindow : (s.resetRegisters).cfgWindow = Config.windowReset := rfl
@[simp] theorem resetRegisters_clipFrames : (s.resetRegisters).clipFrames = 0 := rfl
@[simp] theorem resetRegisters_encBytes : (s.resetRegisters).encBytes = 0 := rfl
@[simp] theorem resetRegisters_crcResult : (s.resetRegisters).crcResult = 0 := rfl
@[simp] theorem resetRegisters_crcExpect : (s.resetRegisters).crcExpect = 0 := rfl
@[simp] theorem resetRegisters_decHdr : (s.resetRegisters).decHdr = 0 := rfl
@[simp] theorem resetRegisters_runLen : (s.resetRegisters).runLen = 0 := rfl
@[simp] theorem resetRegisters_runPos : (s.resetRegisters).runPos = 0 := rfl
@[simp] theorem resetRegisters_selHasPrev : (s.resetRegisters).selHasPrev = false := rfl
@[simp] theorem resetRegisters_nzCount : (s.resetRegisters).nzCount = 0 := rfl
@[simp] theorem resetRegisters_majL : (s.resetRegisters).majL = false := rfl
@[simp] theorem resetRegisters_majR : (s.resetRegisters).majR = false := rfl
@[simp] theorem resetRegisters_whiteL : (s.resetRegisters).whiteL = 0 := rfl
@[simp] theorem resetRegisters_whiteR : (s.resetRegisters).whiteR = 0 := rfl
@[simp] theorem resetRegisters_hdrArg : (s.resetRegisters).hdrArg = 0 := rfl
@[simp] theorem resetRegisters_decConsumed : (s.resetRegisters).decConsumed = 0 := rfl
@[simp] theorem resetRegisters_mem : (s.resetRegisters).mem = s.mem := rfl
@[simp] theorem resetRegisters_cacheValid : (s.resetRegisters).cacheValid = false := rfl
@[simp] theorem resetRegisters_work : (s.resetRegisters).work = s.work := rfl
@[simp] theorem resetRegisters_phase : (s.resetRegisters).phase = .idle := rfl
@[simp] theorem resetRegisters_inBytes : (s.resetRegisters).inBytes = s.inBytes := rfl
@[simp] theorem resetRegisters_inPos : (s.resetRegisters).inPos = s.inPos := rfl
@[simp] theorem resetRegisters_outBytes : (s.resetRegisters).outBytes = s.outBytes := rfl
@[simp] theorem resetRegisters_renderEvents : (s.resetRegisters).renderEvents = s.renderEvents := rfl
@[simp] theorem resetRegisters_hostQueue : (s.resetRegisters).hostQueue = s.hostQueue := rfl
@[simp] theorem resetRegisters_hostReads : (s.resetRegisters).hostReads = s.hostReads := rfl
@[simp] theorem resetRegisters_draws : (s.resetRegisters).draws = s.draws := rfl

end resetRegisters

end Sys2Proof.Machine.State
end

