-- ==== Sys2Proof/Laws/Memory.lean ====
section
/-!
SUPPORT. The laws of memory: what a read sees after a write, that every memory operation keeps the
canonical form, and the reads and writes of byte ranges.
-/

namespace Sys2Proof.Machine

namespace Memory

@[simp] theorem get?_nil (a : Nat) : Memory.get? [] a = none := rfl

theorem get?_cons (k : Nat) (b : Byte) (m : Memory) (a : Nat) :
    Memory.get? ((k, b) :: m) a = if a = k then some b else Memory.get? m a := rfl

theorem get?_append (m n : Memory) (a : Nat) :
    Memory.get? (m ++ n) a = (Memory.get? m a).or (Memory.get? n a) := by
  induction m with
  | nil => simp
  | cons c m ih =>
    obtain ⟨k, b⟩ := c
    by_cases h : a = k <;> simp [get?_cons, h, ih]

theorem get?_eq_none_iff (m : Memory) (a : Nat) :
    Memory.get? m a = none ↔ ∀ c ∈ m, c.1 ≠ a := by
  induction m with
  | nil => simp
  | cons c m ih =>
    obtain ⟨k, b⟩ := c
    by_cases h : a = k
    · simp [get?_cons, h]
    · simp [get?_cons, h, ih, Ne.symm h]

theorem mem_of_get? {m : Memory} {a : Nat} {b : Byte} (h : Memory.get? m a = some b) : (a, b) ∈ m := by
  induction m with
  | nil => simp at h
  | cons c m ih =>
    obtain ⟨k, b'⟩ := c
    by_cases hk : a = k
    · simp_all [get?_cons]
    · simp only [get?_cons, hk, if_false] at h
      exact List.mem_cons_of_mem _ (ih h)

/-- Keeping only the cells whose address satisfies `p`. -/
theorem get?_filter (m : Memory) (p : Nat → Bool) (a : Nat) :
    Memory.get? (m.filter (fun c => p c.1)) a = if p a then Memory.get? m a else none := by
  induction m with
  | nil => simp
  | cons c m ih =>
    obtain ⟨k, b⟩ := c
    by_cases hk : a = k
    · subst hk
      by_cases hp : p a <;> simp [hp, get?_cons, ih]
    · by_cases hp : p k <;> simp [hp, get?_cons, hk, ih]

theorem get?_cells (base : Nat) (bs : List Byte) (a : Nat) :
    Memory.get? (Memory.cells base bs) a = if base ≤ a then bs[a - base]? else none := by
  induction bs generalizing base with
  | nil => simp [cells]
  | cons b bs ih =>
    rw [cells, get?_cons, ih]
    by_cases h : a = base
    · simp [h]
    · by_cases hle : base ≤ a
      · obtain ⟨d, rfl⟩ : ∃ d, a = base + 1 + d := ⟨a - base - 1, by omega⟩
        have h1 : base + 1 + d - base = d + 1 := by omega
        have h2 : base + 1 + d - (base + 1) = d := by omega
        simp [h, hle, h1, h2]
      · have : ¬ base + 1 ≤ a := by omega
        simp [h, hle, this]

/-- What a read sees after a write: inside the written range the written byte, outside it what was there. -/
theorem get?_write (m : Memory) (base : Nat) (bs : List Byte) (a : Nat) :
    (m.write base bs).get? a =
      if base ≤ a ∧ a < base + bs.length then bs[a - base]? else m.get? a := by
  rw [write, get?_append, get?_append, get?_filter m (fun k => decide (k < base)),
    get?_filter m (fun k => decide (base + bs.length ≤ k)), get?_cells]
  by_cases h1 : a < base
  · have h2 : ¬ base ≤ a := by omega
    have h3 : ¬ base + bs.length ≤ a := by omega
    simp [h1, h2, h3]
  · by_cases h2 : a < base + bs.length
    · have h3 : ¬ base + bs.length ≤ a := by omega
      have h4 : base ≤ a := by omega
      simp [h1, h2, h3, h4]
    · have h3 : base + bs.length ≤ a := by omega
      have h4 : base ≤ a := by omega
      have h5 : bs.length ≤ a - base := by omega
      simp [h1, h2, h3, h4, h5]

theorem get?_write_of_not_mem {m : Memory} {base : Nat} {bs : List Byte} {a : Nat}
    (h : ¬ (base ≤ a ∧ a < base + bs.length)) : (m.write base bs).get? a = m.get? a := by
  rw [get?_write, if_neg h]

theorem get?_write_add {m : Memory} {base : Nat} {bs : List Byte} {i : Nat} (h : i < bs.length) :
    (m.write base bs).get? (base + i) = some bs[i] := by
  have h1 : base ≤ base + i ∧ base + i < base + bs.length := by omega
  have h2 : base + i - base = i := by omega
  rw [get?_write, if_pos h1, h2, List.getElem?_eq_getElem h]

theorem mem_cells {base : Nat} {bs : List Byte} {c : Host.Cell} (h : c ∈ Memory.cells base bs) :
    base ≤ c.1 ∧ c.1 < base + bs.length ∧ c.2 ∈ bs := by
  induction bs generalizing base with
  | nil => simp [cells] at h
  | cons b bs ih =>
    rw [cells, List.mem_cons] at h
    rcases h with rfl | h
    · simp
    · obtain ⟨h1, h2, h3⟩ := ih h
      simp only [List.length_cons, List.mem_cons]
      exact ⟨by omega, by omega, .inr h3⟩

theorem wf_cells (base : Nat) (bs : List Byte) : Memory.wf (Memory.cells base bs) := by
  induction bs generalizing base with
  | nil => exact List.Pairwise.nil
  | cons b bs ih =>
    refine List.Pairwise.cons (fun c hc => ?_) (ih (base + 1))
    have := (mem_cells hc).1
    simp only
    omega

/-- A cell after a write was there before, outside the written range, or is one of the written bytes. -/
theorem mem_write {m : Memory} {base : Nat} {bs : List Byte} {c : Host.Cell} (h : c ∈ m.write base bs) :
    (c ∈ m ∧ (c.1 < base ∨ base + bs.length ≤ c.1)) ∨
      (base ≤ c.1 ∧ c.1 < base + bs.length ∧ c.2 ∈ bs) := by
  simp only [write, List.mem_append, List.mem_filter, decide_eq_true_eq] at h
  rcases h with (⟨h1, h2⟩ | h) | ⟨h1, h2⟩
  · exact .inl ⟨h1, .inl h2⟩
  · exact .inr (mem_cells h)
  · exact .inl ⟨h1, .inr h2⟩

/-- A write keeps the canonical form. -/
theorem wf_write {m : Memory} (h : m.wf) (base : Nat) (bs : List Byte) : (m.write base bs).wf := by
  rw [wf, write, List.pairwise_append, List.pairwise_append]
  refine ⟨⟨h.filter _, wf_cells base bs, ?_⟩, h.filter _, ?_⟩
  · intro c hc d hd
    have h1 := (List.mem_filter.mp hc).2
    have h2 := mem_cells hd
    simp only [decide_eq_true_eq] at h1
    omega
  · intro c hc d hd
    have h2 := (List.mem_filter.mp hd).2
    simp only [decide_eq_true_eq] at h2
    rcases List.mem_append.mp hc with hc | hc
    · have h1 := (List.mem_filter.mp hc).2
      simp only [decide_eq_true_eq] at h1
      omega
    · have := mem_cells hc
      omega

theorem wf_nil : Memory.wf [] := List.Pairwise.nil

end Memory

namespace State

theorem byteAt_def (s : State) (a : Nat) : s.byteAt a = s.mem.get? a := rfl

theorem readByte_of_byteAt {s : State} {a : Nat} {b : Byte} (h : s.byteAt a = some b) :
    s.readByte a = b := by simp [readByte, h]

@[simp] theorem length_readBytes (s : State) (base n : Nat) : (s.readBytes base n).length = n := by
  simp [readBytes]

@[simp] theorem getElem_readBytes (s : State) (base n i : Nat) (h : i < (s.readBytes base n).length) :
    (s.readBytes base n)[i] = s.readByte (base + i) := by
  simp [readBytes]

theorem getElem?_readBytes (s : State) (base n i : Nat) :
    (s.readBytes base n)[i]? = if i < n then some (s.readByte (base + i)) else none := by
  by_cases h : i < n <;> simp [readBytes, h]

@[simp] theorem length_readFrame (s : State) (w : Window) : (s.readFrame w).length = s.cfg.frameBytes := by
  simp [readFrame, frameSize]

@[simp] theorem length_readRunList (s : State) : s.readRunList.length = s.runLen.toNat := by
  simp [readRunList]

@[simp] theorem length_readMajorities (s : State) : s.readMajorities.length = s.clipFrames.toNat := by
  simp [readMajorities, clipLength]

@[simp] theorem length_readClip (s : State) : s.readClip.length = s.clipFrames.toNat := by
  simp [readClip, clipLength]

@[simp] theorem length_readClipFrame (s : State) (f : Nat) :
    (s.readClipFrame f).length = s.cfg.frameBytes := by
  simp [readClipFrame, frameSize]

/-- A range that a state has as `bs`, byte by byte, is read as `bs`: no free value is drawn. -/
theorem readBytes_eq_of_byteAt {s : State} {base : Nat} {bs : List Byte}
    (h : ∀ i (hi : i < bs.length), s.byteAt (base + i) = some bs[i]) :
    s.readBytes base bs.length = bs := by
  apply List.ext_getElem (by simp)
  intro i h1 h2
  rw [getElem_readBytes]
  exact readByte_of_byteAt (h i h2)

/-- The byte at an address after a window write. -/
theorem byteAt_writeWindow (s : State) (w : Window) (bs : List Byte) (a : Nat) :
    (s.writeWindow w bs).byteAt a =
      if w.base ≤ a ∧ a < w.base + bs.length then bs[a - w.base]? else s.byteAt a :=
  Memory.get?_write ..

theorem byteAt_writeBytes (s : State) (base : Nat) (bs : List Byte) (a : Nat) :
    (s.writeBytes base bs).byteAt a =
      if base ≤ a ∧ a < base + bs.length then bs[a - base]? else s.byteAt a :=
  Memory.get?_write ..

/-- Two states with the same memory have the same bytes. -/
theorem byteAt_congr {s t : State} (h : t.mem = s.mem) (a : Nat) : t.byteAt a = s.byteAt a := by
  simp [byteAt, h]

end State

end Sys2Proof.Machine
end

