-- ==== Sys2Proof/Laws/Codec.lean ====
section
/-!
SUPPORT. The small lemmas of the codec's functions: lengths, equations and inverses. Callers cite these
and do not unfold the functions.
-/

namespace Sys2Proof.Machine

/-! ### Bytes -/

@[simp] theorem not8_not8 (v : Byte) : not8 (not8 v) = v := by simp [not8]

@[simp] theorem xor8_self (a : Byte) : xor8 a a = 0 := by simp [xor8]

theorem xor8_xor8 (a b : Byte) : xor8 (xor8 a b) b = a := by simp [xor8]

@[simp] theorem seqEntry_left (l r : Bool) : (seqEntry l r).getLsbD 0 = l := by
  cases l <;> cases r <;> decide

@[simp] theorem seqEntry_right (l r : Bool) : (seqEntry l r).getLsbD 1 = r := by
  cases l <;> cases r <;> decide

theorem seqEntry_lt (l r : Bool) : (seqEntry l r).toNat < 4 := by
  cases l <;> cases r <;> decide

theorem seqMask_lt (b : Byte) : (seqMask b).toNat < 4 := by
  have : (seqMask b).toNat ≤ 3 := by simpa [seqMask] using Nat.and_le_right (n := b.toNat) (m := 3)
  omega

@[simp] theorem headerByte_left (l r k : Bool) : (headerByte l r k).getLsbD 0 = l := by
  cases l <;> cases r <;> cases k <;> decide

@[simp] theorem headerByte_right (l r k : Bool) : (headerByte l r k).getLsbD 1 = r := by
  cases l <;> cases r <;> cases k <;> decide

@[simp] theorem headerByte_key (l r k : Bool) : (headerByte l r k).getLsbD 2 = k := by
  cases l <;> cases r <;> cases k <;> decide

/-! ### Frames -/

@[simp] theorem length_invertFrame (fr : List Byte) : (invertFrame fr).length = fr.length := by
  simp [invertFrame]

@[simp] theorem getElem_invertFrame (fr : List Byte) (i : Nat) (h : i < (invertFrame fr).length) :
    (invertFrame fr)[i] = not8 (fr[i]'(by simpa using h)) := by simp [invertFrame]

@[simp] theorem invertFrame_invertFrame (fr : List Byte) : invertFrame (invertFrame fr) = fr := by
  simp [invertFrame, Function.comp_def]

@[simp] theorem length_xorFrame (a b : List Byte) : (xorFrame a b).length = min a.length b.length := by
  simp [xorFrame]

theorem getElem_xorFrame (a b : List Byte) (i : Nat) (h : i < (xorFrame a b).length) :
    (xorFrame a b)[i] = xor8 (a[i]'(by simp at h; omega)) (b[i]'(by simp at h; omega)) := by
  simp [xorFrame]

theorem length_payload (p : Params) (cur : List Byte) (prev : Option (List Byte))
    (h : ∀ q ∈ prev, q.length = cur.length) : (payload p cur prev).length = cur.length := by
  cases prev with
  | none => rfl
  | some q =>
    have := h q rfl
    simp only [payload]
    split <;> simp [this]

theorem nonzeroCount_le (x : List Byte) : nonzeroCount x ≤ x.length := List.countP_le_length

@[simp] theorem length_outFrame (c : OutConv) (fr : List Byte) : (outFrame c fr).length = fr.length := by
  cases c <;> simp [outFrame]

theorem columnWhite_le (p : Params) (fr : List Byte) (c : Nat) : columnWhite p fr c ≤ p.height := by
  simpa [columnWhite] using
    List.countP_le_length (p := fun r => pixel p fr r c) (l := List.range p.height)

/-! ### Stabilizer -/

@[simp] theorem length_stabilizeFrom (wn : Nat) (cur : Bool) (m : List Bool) :
    (stabilizeFrom wn cur m).length = m.length := by
  induction m generalizing cur with
  | nil => rfl
  | cons b m ih => simp [stabilizeFrom, ih]

@[simp] theorem length_stabilize (wn : Nat) (m : List Bool) : (stabilize wn m).length = m.length := by
  cases m <;> simp [stabilize]

@[simp] theorem length_stabilizeEntries (wn : Nat) (es : List Byte) :
    (stabilizeEntries wn es).length = es.length := by
  simp [stabilizeEntries, seqLefts, seqRights]

/-! ### Run-lists -/

theorem runsFrom_nil (v : Byte) (c : Nat) : runsFrom v c [] = [(c, v)] := rfl

theorem runsFrom_extend {b v : Byte} {c : Nat} (rest : List Byte) (h : b = v) (hc : c < 255) :
    runsFrom v c (b :: rest) = runsFrom v (c + 1) rest := by
  simp [runsFrom, Config.runMax, h, hc]

theorem runsFrom_close {b v : Byte} {c : Nat} (rest : List Byte) (h : b ≠ v ∨ 255 ≤ c) :
    runsFrom v c (b :: rest) = (c, v) :: runsFrom b 1 rest := by
  have : ¬ (b = v ∧ c < Config.runMax) := by
    rintro ⟨h1, h2⟩
    rcases h with h | h
    · exact h h1
    · have : c < 255 := h2
      omega
  rw [runsFrom, if_neg this]

@[simp] theorem serialiseRuns_nil : serialiseRuns [] = [] := rfl

@[simp] theorem serialiseRuns_cons (c : Nat) (v : Byte) (rs : List (Nat × Byte)) :
    serialiseRuns ((c, v) :: rs) = BitVec.ofNat 8 c :: v :: serialiseRuns rs := rfl

@[simp] theorem length_serialiseRuns (rs : List (Nat × Byte)) : (serialiseRuns rs).length = 2 * rs.length := by
  induction rs with
  | nil => rfl
  | cons r rs ih =>
    obtain ⟨c, v⟩ := r
    simp [ih]
    omega

@[simp] theorem rleDecode_done (zr : ZeroRun) (source : List Byte) :
    rleDecode zr 0 source = ⟨.ok [], 0⟩ := by cases source <;> simp [rleDecode]

theorem rleDecode_empty (zr : ZeroRun) {need : Nat} (h : 0 < need) :
    rleDecode zr need [] = ⟨.err .streamTruncated, 0⟩ := by
  obtain ⟨n, rfl⟩ : ∃ n, need = n + 1 := ⟨need - 1, by omega⟩
  simp [rleDecode]

theorem rleDecode_lone (zr : ZeroRun) {need : Nat} (h : 0 < need) (c : Byte) :
    rleDecode zr need [c] = ⟨.err .streamTruncated, 1⟩ := by
  obtain ⟨n, rfl⟩ : ∃ n, need = n + 1 := ⟨need - 1, by omega⟩
  simp [rleDecode]

/-- A pair whose count fits what is still needed appends its run. -/
theorem rleDecode_run (zr : ZeroRun) {need : Nat} {c v : Byte} (rest : List Byte)
    (h1 : 1 ≤ c.toNat) (h2 : c.toNat ≤ need) :
    rleDecode zr need (c :: v :: rest) =
      (rleDecode zr (need - c.toNat) rest).after (List.replicate c.toNat v) := by
  obtain ⟨n, rfl⟩ : ∃ n, need = n + 1 := ⟨need - 1, by omega⟩
  have h3 : c.toNat ≠ 0 := by omega
  have h4 : ¬ c.toNat > n + 1 := by omega
  simp only [rleDecode, h3, h4, if_false]

theorem rleDecode_overflow (zr : ZeroRun) {need : Nat} {c v : Byte} (rest : List Byte)
    (h1 : 0 < need) (h2 : need < c.toNat) :
    rleDecode zr need (c :: v :: rest) = ⟨.err .runOverflow, 2⟩ := by
  obtain ⟨n, rfl⟩ : ∃ n, need = n + 1 := ⟨need - 1, by omega⟩
  have h3 : c.toNat ≠ 0 := by omega
  have h4 : c.toNat > n + 1 := by omega
  simp only [rleDecode, h3, h4, if_false, if_true]

theorem rleDecode_zero_reject {need : Nat} (v : Byte) (rest : List Byte) (h1 : 0 < need) :
    rleDecode .reject need (0 :: v :: rest) = ⟨.err .zeroRun, 2⟩ := by
  obtain ⟨n, rfl⟩ : ∃ n, need = n + 1 := ⟨need - 1, by omega⟩
  simp [rleDecode]

theorem rleDecode_zero_accept {need : Nat} (v : Byte) (rest : List Byte) (h1 : 0 < need) :
    rleDecode .accept need (0 :: v :: rest) = (rleDecode .accept need rest).after [] := by
  obtain ⟨n, rfl⟩ : ∃ n, need = n + 1 := ⟨need - 1, by omega⟩
  simp [rleDecode]

@[simp] theorem after_used (bs : List Byte) (r : RleRead) : (r.after bs).used = r.used + 2 := rfl

theorem after_ok {bs out : List Byte} {r : RleRead} (h : (r.after bs).result = .ok out) :
    ∃ tail, r.result = .ok tail ∧ out = bs ++ tail := by
  unfold RleRead.after at h
  cases hr : r.result with
  | ok tail =>
    simp only [hr, RleResult.ok.injEq] at h
    exact ⟨tail, rfl, h.symm⟩
  | err k => simp [hr] at h

theorem after_err {bs : List Byte} {k : FailKind} {r : RleRead} (h : (r.after bs).result = .err k) :
    r.result = .err k := by
  unfold RleRead.after at h
  cases hr : r.result with
  | ok tail => simp [hr] at h
  | err j => simpa [hr] using h

/-- Everything one turn of RleDecode can do: finish, run out of bytes, report a pair, or read a pair and
go on. -/
theorem rleDecode_cases (zr : ZeroRun) (need : Nat) (source : List Byte) :
    (need = 0 ∧ rleDecode zr need source = ⟨.ok [], 0⟩) ∨
    (0 < need ∧ source = [] ∧ rleDecode zr need source = ⟨.err .streamTruncated, 0⟩) ∨
    (0 < need ∧ (∃ c, source = [c]) ∧ rleDecode zr need source = ⟨.err .streamTruncated, 1⟩) ∨
    (0 < need ∧ ∃ c v rest, source = c :: v :: rest ∧
      ((c.toNat = 0 ∧ zr = .reject ∧ rleDecode zr need source = ⟨.err .zeroRun, 2⟩) ∨
       (c.toNat > need ∧ rleDecode zr need source = ⟨.err .runOverflow, 2⟩) ∨
       (c.toNat ≤ need ∧ (1 ≤ c.toNat ∨ zr = .accept) ∧
        rleDecode zr need source = (rleDecode zr (need - c.toNat) rest).after (List.replicate c.toNat v)))) := by
  rcases Nat.eq_zero_or_pos need with rfl | h
  · exact .inl ⟨rfl, by simp⟩
  · refine .inr ?_
    rcases source with _ | ⟨c, _ | ⟨v, rest⟩⟩
    · exact .inl ⟨h, rfl, rleDecode_empty zr h⟩
    · exact .inr (.inl ⟨h, ⟨c, rfl⟩, rleDecode_lone zr h c⟩)
    · refine .inr (.inr ⟨h, c, v, rest, rfl, ?_⟩)
      by_cases hc : c.toNat = 0
      · have hc0 : c = 0 := BitVec.eq_of_toNat_eq (by simpa using hc)
        subst hc0
        cases zr with
        | reject => exact .inl ⟨hc, rfl, rleDecode_zero_reject v rest h⟩
        | accept =>
          refine .inr (.inr ⟨by simp, .inr rfl, ?_⟩)
          simpa using rleDecode_zero_accept v rest h
      · by_cases hn : c.toNat ≤ need
        · exact .inr (.inr ⟨hn, .inl (by omega), rleDecode_run zr rest (by omega) hn⟩)
        · exact .inr (.inl ⟨by omega, rleDecode_overflow zr rest h (by omega)⟩)

/-- RleDecode never reads past its source. -/
theorem rleDecode_used_le (zr : ZeroRun) (need : Nat) (source : List Byte) :
    (rleDecode zr need source).used ≤ source.length := by
  induction hn : source.length using Nat.strong_induction_on generalizing need source with
  | _ n ih =>
    subst hn
    rcases rleDecode_cases zr need source with ⟨-, h⟩ | ⟨-, -, h⟩ | ⟨-, ⟨c, rfl⟩, h⟩ | ⟨-, c, v, rest, rfl, h⟩
    · simp [h]
    · simp [h]
    · simp [h]
    · rcases h with ⟨-, -, h⟩ | ⟨-, h⟩ | ⟨-, -, h⟩
      · simp [h]
      · simp [h]
      · have := ih rest.length (by simp) (need - c.toNat) rest rfl
        simp only [h, after_used, List.length_cons]
        omega

/-- A successful RleDecode has produced exactly the bytes it was asked for (42_rle.md R183). -/
theorem rleDecode_length {zr : ZeroRun} {need : Nat} {source out : List Byte}
    (h : (rleDecode zr need source).result = .ok out) : out.length = need := by
  induction hn : source.length using Nat.strong_induction_on generalizing need source out with
  | _ n ih =>
    subst hn
    rcases rleDecode_cases zr need source with ⟨hz, e⟩ | ⟨-, -, e⟩ | ⟨-, -, e⟩ | ⟨-, c, v, rest, rfl, e⟩
    · simp only [e, RleResult.ok.injEq] at h
      simp [← h, hz]
    · simp [e] at h
    · simp [e] at h
    · rcases e with ⟨-, -, e⟩ | ⟨-, e⟩ | ⟨hc, -, e⟩
      · simp [e] at h
      · simp [e] at h
      · rw [e] at h
        obtain ⟨tail, h1, rfl⟩ := after_ok h
        have := ih rest.length (by simp) h1 rfl
        simp [this]
        omega

/-- The failure kinds RleDecode reports are those of 60_exceptions.md R321. -/
theorem rleDecode_err_kind {zr : ZeroRun} {need : Nat} {source : List Byte} {k : FailKind}
    (h : (rleDecode zr need source).result = .err k) :
    k = .streamTruncated ∨ k = .runOverflow ∨ k = .zeroRun := by
  induction hn : source.length using Nat.strong_induction_on generalizing need source with
  | _ n ih =>
    subst hn
    rcases rleDecode_cases zr need source with ⟨-, e⟩ | ⟨-, -, e⟩ | ⟨-, -, e⟩ | ⟨-, c, v, rest, rfl, e⟩
    · simp [e] at h
    · simp only [e, RleResult.err.injEq] at h
      simp [← h]
    · simp only [e, RleResult.err.injEq] at h
      simp [← h]
    · rcases e with ⟨-, -, e⟩ | ⟨-, e⟩ | ⟨-, -, e⟩
      · simp only [e, RleResult.err.injEq] at h
        simp [← h]
      · simp only [e, RleResult.err.injEq] at h
        simp [← h]
      · rw [e] at h
        exact ih rest.length (by simp) (after_err h) rfl

/-- RleDecode reports StreamTruncated only once its source is used up (45_decoder.md R271). -/
theorem rleDecode_truncated_used {zr : ZeroRun} {need u : Nat} {source : List Byte}
    (h : rleDecode zr need source = ⟨.err .streamTruncated, u⟩) : u = source.length := by
  induction hn : source.length using Nat.strong_induction_on generalizing need source u with
  | _ n ih =>
    subst hn
    rcases rleDecode_cases zr need source with ⟨-, e⟩ | ⟨-, rfl, e⟩ | ⟨-, ⟨c, rfl⟩, e⟩ | ⟨-, c, v, rest, rfl, e⟩
    · simp [e] at h
    · rw [e] at h
      simp at h
      simp [← h]
    · rw [e] at h
      simp at h
      simp [← h]
    · rcases e with ⟨-, -, e⟩ | ⟨-, e⟩ | ⟨-, -, e⟩
      · simp [e] at h
      · simp [e] at h
      · rw [e] at h
        have hres : (rleDecode zr (need - c.toNat) rest).result = .err .streamTruncated :=
          after_err (bs := List.replicate c.toNat v) (by rw [h])
        have hu : (rleDecode zr (need - c.toNat) rest).used + 2 = u := by
          have := congrArg RleRead.used h
          simpa using this
        have := ih rest.length (by simp) (need := need - c.toNat)
          (u := (rleDecode zr (need - c.toNat) rest).used) (source := rest)
          (by rw [← hres]) rfl
        simp only [List.length_cons]
        omega

/-! ### Checksums -/

@[simp] theorem crcShifts_zero (c : Half) : crcShifts 0 c = c := rfl

theorem crcShifts_succ (n : Nat) (c : Half) : crcShifts (n + 1) c = crcShifts n (crcShift c) := rfl

theorem crc16_nil : crc16 [] = 0xFFFF := rfl

theorem crc16_concat (d : List Byte) (b : Byte) : crc16 (d ++ [b]) = crcByte (crc16 d) b := by
  simp [crc16]

/-- The checksum register over a run of one byte, cut in two. -/
theorem crcByte_foldl_replicate_add (b : Byte) (m n : Nat) (c : Half) :
    (List.replicate (m + n) b).foldl crcByte c =
      (List.replicate n b).foldl crcByte ((List.replicate m b).foldl crcByte c) := by
  rw [← List.replicate_append_replicate, List.foldl_append]

@[simp] theorem length_crcBytes (c : Half) : (crcBytes c).length = 2 := rfl

@[simp] theorem length_recordBytes (h : Byte) (r : List Byte) (c : Half) :
    (recordBytes h r c).length = r.length + 3 := by simp [recordBytes]

end Sys2Proof.Machine
end

