-- ==== Sys2Proof/Laws/Bus.lean ====
section
/-!
SUPPORT. The small lemmas of the decoder of command words, of legal parameters and of the host bus: which
register or window an access reaches, and the bus's byte order.
-/

namespace Sys2Proof

/-- A lookup answers a row of the table. -/
theorem lookupOpcode_mem {op : Byte} {rows : List (Byte × Instr)} {i : Instr}
    (h : lookupOpcode op rows = some i) : (op, i) ∈ rows := by
  induction rows with
  | nil => simp [lookupOpcode] at h
  | cons r rows ih =>
    obtain ⟨o, j⟩ := r
    rw [lookupOpcode] at h
    by_cases ho : op = o
    · rw [if_pos ho, Option.some.injEq] at h
      simp [ho, h]
    · rw [if_neg ho] at h
      exact List.mem_cons_of_mem _ (ih h)

/-- Every row of the opcode map is a command under its opcode. -/
theorem opcode_of_mem_opcodeMap : ∀ r ∈ opcodeMap, r.1 = opcode r.2 := by decide

/-- No two rows of the opcode map share an opcode. -/
theorem opcodeMap_distinct : opcodeMap.Pairwise (fun a b => a.1 ≠ b.1) := by decide

/-- A word is its two fields. -/
theorem argField_append_opcodeField (w : Word) : argField w ++ opcodeField w = w := by
  apply BitVec.eq_of_getLsbD_eq
  intro j hj
  simp only [argField, opcodeField, BitVec.getLsbD_append, BitVec.getLsbD_extractLsb']
  by_cases h : j < 8
  · simp [h]
  · have h24 : j - 8 < 24 := by omega
    have h8 : 8 + (j - 8) = j := by omega
    simp [h, h24, h8]

namespace Params

/-- What legal parameters are, as propositions. -/
theorem wf_iff (p : Params) : p.wf = true ↔
    8 ≤ p.width ∧ p.width ≤ 65535 ∧ p.width % 8 = 0 ∧ 1 ≤ p.height ∧ p.frameBytes ≤ 32768 ∧
      1 ≤ p.maxFrames ∧ p.maxFrames ≤ 65536 := by
  simp only [wf, Bool.and_eq_true, decide_eq_true_eq]
  tauto

/-- N = P_H * (P_W / 8). -/
theorem frameBytes_eq {p : Params} (h : p.wf = true) : p.frameBytes = p.height * p.rowBytes := by
  obtain ⟨-, -, h8, -⟩ := (wf_iff p).1 h
  obtain ⟨k, hk⟩ : ∃ k, p.width = 8 * k := ⟨p.width / 8, by omega⟩
  have h1 : p.rowBytes = k := by rw [rowBytes, hk]; omega
  rw [frameBytes, h1, hk, Nat.mul_assoc, Nat.mul_div_cancel_left _ (by omega), Nat.mul_comm]

theorem rowBytes_pos {p : Params} (h : p.wf = true) : 1 ≤ p.rowBytes := by
  obtain ⟨h8, -⟩ := (wf_iff p).1 h
  rw [rowBytes]
  omega

theorem height_le_frameBytes {p : Params} (h : p.wf = true) : p.height ≤ p.frameBytes := by
  rw [frameBytes_eq h]
  exact Nat.le_mul_of_pos_right _ (rowBytes_pos h)

theorem frameBytes_pos {p : Params} (h : p.wf = true) : 1 ≤ p.frameBytes := by
  have h1 := height_le_frameBytes h
  obtain ⟨-, -, -, h2, -⟩ := (wf_iff p).1 h
  omega

theorem frameBytes_le {p : Params} (h : p.wf = true) : p.frameBytes ≤ 32768 := ((wf_iff p).1 h).2.2.2.2.1

theorem maxFrames_le {p : Params} (h : p.wf = true) : p.maxFrames ≤ 65536 := ((wf_iff p).1 h).2.2.2.2.2.2

theorem maxFrames_pos {p : Params} (h : p.wf = true) : 1 ≤ p.maxFrames := ((wf_iff p).1 h).2.2.2.2.2.1

end Params

/-- The default parameters are legal, whatever the OPEN ones are. -/
theorem Config.params_wf : Config.params.wf = true := by
  have h : Config.openMaxFrames % 65536 < 65536 := Nat.mod_lt _ (by omega)
  rw [Params.wf_iff]
  refine ⟨by decide, by decide, by decide, by decide, by decide, ?_, ?_⟩ <;> simp only [Config.params] <;> omega

namespace Machine

theorem Window.holds_iff (p : Params) (a n : Nat) (w : Window) :
    w.holds p a n = true ↔ w.base ≤ a ∧ a + n ≤ w.base + w.size p := by
  simp [Window.holds]

theorem Window.mem_all (w : Window) : w ∈ Window.all := by cases w <;> decide

/-- Every window but CLIP_MEM ends within 64 KiB of its base. -/
theorem Window.size_le {p : Params} (h : p.wf = true) {w : Window} (hw : w ≠ .clipMem) :
    w.size p ≤ 65536 := by
  have h1 := Params.frameBytes_le h
  have h2 := Params.maxFrames_le h
  cases w <;> simp only [Window.size] <;> first | omega | exact absurd rfl hw

/-- No address lies in two windows (20_memory.md R70). -/
theorem Window.holds_unique {p : Params} (h : p.wf = true) {a m n : Nat} (hm : 1 ≤ m) (hn : 1 ≤ n)
    {v w : Window} (hv : v.holds p a m = true) (hw : w.holds p a n = true) : v = w := by
  have h1 := Params.frameBytes_le h
  have h2 := Params.maxFrames_le h
  rw [Window.holds_iff] at hv hw
  cases v <;> cases w <;> simp only [Window.base, Window.size] at hv hw <;> first | rfl | omega

theorem windowAccess?_some {p : Params} {a : Nat} {n : Width} {w : Window}
    (h : windowAccess? p a n = some w) : a % n.bytes = 0 ∧ w.holds p a n.bytes = true := by
  unfold windowAccess? at h
  split at h
  · rename_i ha
    exact ⟨ha, List.find?_some h⟩
  · cases h

theorem Width.bytes_pos (n : Width) : 1 ≤ n.bytes := by cases n <;> decide

/-- An aligned access inside a window reaches that window. -/
theorem windowAccess?_of_holds {p : Params} (hp : p.wf = true) {a : Nat} {n : Width} {w : Window}
    (ha : a % n.bytes = 0) (h : w.holds p a n.bytes = true) : windowAccess? p a n = some w := by
  rw [windowAccess?, if_pos ha]
  cases hf : Window.all.find? (Window.holds p a n.bytes) with
  | none => exact absurd h (List.find?_eq_none.1 hf w w.mem_all)
  | some v => rw [Window.holds_unique hp n.bytes_pos n.bytes_pos (List.find?_some hf) h]

theorem windowAccess?_none {p : Params} {a : Nat} {n : Width}
    (h : a % n.bytes ≠ 0 ∨ ∀ w : Window, ¬ w.holds p a n.bytes = true) : windowAccess? p a n = none := by
  unfold windowAccess?
  split
  · rename_i ha
    rcases h with h | h
    · exact absurd ha h
    · exact List.find?_eq_none.2 (fun w _ => h w)
  · rfl

/-- A register is found at its own offset. -/
theorem regAccess?_offset (r : Reg) : regAccess? r.offset .four = some r := by cases r <;> decide

theorem regAccess?_some {a : Nat} {n : Width} {r : Reg} (h : regAccess? a n = some r) :
    a < 0x100 ∧ n = .four ∧ a = r.offset := by
  unfold regAccess? at h
  split at h
  · rename_i hc
    have := List.find?_some h
    simp only [decide_eq_true_eq] at this
    exact ⟨hc.1, hc.2.1, this.symm⟩
  · cases h

/-- No register beyond the register window. -/
theorem regAccess?_none {a : Nat} (n : Width) (h : 0x100 ≤ a) : regAccess? a n = none := by
  unfold regAccess?
  rw [if_neg]
  rintro ⟨h1, -⟩
  simp only [registerWindowEnd] at h1
  omega

theorem Reg.offset_lt (r : Reg) : r.offset < 0x48 := by cases r <;> decide

theorem Reg.offset_aligned (r : Reg) : r.offset % 4 = 0 := by cases r <;> decide

theorem Reg.toNat_offset (r : Reg) : (BitVec.ofNat 32 r.offset).toNat = r.offset := by cases r <;> decide

/-- The base of every window lies beyond the register window. -/
theorem Window.base_ge (w : Window) : 0x10000 ≤ w.base := by cases w <;> decide

@[simp] theorem length_leBytes (n v : Nat) : (leBytes n v).length = n := by
  induction n generalizing v with
  | zero => rfl
  | succ n ih => simp [leBytes, ih]

theorem getElem_leBytes (n v k : Nat) (h : k < (leBytes n v).length) :
    (leBytes n v)[k] = BitVec.ofNat 8 (v / 256 ^ k) := by
  induction n generalizing v k with
  | zero => simp at h
  | succ n ih =>
    cases k with
    | zero => simp [leBytes]
    | succ k =>
      simp only [leBytes, List.getElem_cons_succ, ih]
      rw [Nat.div_div_eq_div_mul, Nat.pow_succ, Nat.mul_comm]

/-- The bus's byte order is little-endian both ways (20_memory.md R73). -/
theorem leValue_leBytes (n v : Nat) : leValue (leBytes n v) = v % 256 ^ n := by
  induction n generalizing v with
  | zero => simp [leBytes, leValue, Nat.mod_one]
  | succ n ih =>
    have h : (256 : Nat) ^ (n + 1) = 256 * 256 ^ n := by rw [Nat.pow_succ, Nat.mul_comm]
    rw [leBytes, leValue, ih, BitVec.toNat_ofNat, h, Nat.mod_mul]

theorem leValue_lt (bs : List Byte) : leValue bs < 256 ^ bs.length := by
  induction bs with
  | nil => simp [leValue]
  | cons b bs ih =>
    have := b.isLt
    simp only [leValue, List.length_cons, Nat.pow_succ]
    omega

end Machine

end Sys2Proof
end

