-- ==== Sys2Proof/Laws/Decoder.lean ====
section
/-!
SUPPORT. What a DEC_FRAME can do, said once: the input port, the two endings, one lemma for each way a
record reads, and the case lemma the statements about DEC_FRAME derive from.
-/

namespace Sys2Proof.Machine.State

/-! ### The input port -/

theorem inRead_cons {s : State} {b : Byte} {rest : List Byte} (h : s.unread = b :: rest) :
    s.inRead = (some b, s.advanceInput 1) := by simp [inRead, h]

theorem inRead_nil {s : State} (h : s.unread = []) : s.inRead = (none, s) := by simp [inRead, h]

theorem unread_advanceInput (s : State) (k : Nat) : (s.advanceInput k).unread = s.unread.drop k := by
  simp [unread]

@[simp] theorem unread_enterPhase (s : State) (p : Phase) : (s.enterPhase p).unread = s.unread := rfl

@[simp] theorem unread_setWork (s : State) (w : List Byte) : (s.setWork w).unread = s.unread := rfl

theorem length_unread (s : State) : s.unread.length = s.inBytes.length - s.inPos := by simp [unread]

theorem advanceInput_advanceInput (s : State) (j k : Nat) :
    (s.advanceInput j).advanceInput k = s.advanceInput (j + k) := by
  simp [advanceInput, Nat.add_assoc]

theorem advanceInput_zero (s : State) : s.advanceInput 0 = s := rfl

@[simp] theorem advanceInput_enterPhase (s : State) (p : Phase) (k : Nat) :
    (s.enterPhase p).advanceInput k = (s.advanceInput k).enterPhase p := rfl

@[simp] theorem advanceInput_setWork (s : State) (w : List Byte) (k : Nat) :
    (s.setWork w).advanceInput k = (s.advanceInput k).setWork w := rfl

@[simp] theorem enterPhase_enterPhase (s : State) (p q : Phase) :
    (s.enterPhase p).enterPhase q = s.enterPhase q := rfl

@[simp] theorem setWork_enterPhase (s : State) (p : Phase) (w : List Byte) :
    (s.enterPhase p).setWork w = (s.setWork w).enterPhase p := rfl

@[simp] theorem setWork_setWork (s : State) (v w : List Byte) : (s.setWork v).setWork w = s.setWork w := rfl

/-! ### The endings overwrite the phase and discard WORK -/

@[simp] theorem decodeFail_enterPhase (s : State) (q : Phase) (k : FailKind) (p : WorkPhase) (n : Nat) :
    (s.enterPhase q).decodeFail k p n = s.decodeFail k p n := rfl

@[simp] theorem decodeFail_setWork (s : State) (w : List Byte) (k : FailKind) (p : WorkPhase) (n : Nat) :
    (s.setWork w).decodeFail k p n = s.decodeFail k p n := rfl

@[simp] theorem decodeCommit_enterPhase (s : State) (q : Phase) (h : Byte) (n : Nat) :
    (s.enterPhase q).decodeCommit h n = s.decodeCommit h n := rfl

/-! ### The phases -/

@[simp] theorem verifyChecksum_enterPhase (s : State) (q : Phase) (h : Byte) (c : Half) (n : Nat) :
    (s.enterPhase q).verifyChecksum h c n = s.verifyChecksum h c n := rfl

@[simp] theorem applyDelta_enterPhase (s : State) (q : Phase) (h : Byte) (c : Half) (n : Nat) :
    (s.enterPhase q).applyDelta h c n = s.applyDelta h c n := rfl

@[simp] theorem decodeRuns_enterPhase (s : State) (q : Phase) (h : Byte) (n : Nat) :
    (s.enterPhase q).decodeRuns h n = s.decodeRuns h n := rfl

/-- VerifyingChecksum with equal checksums commits (45_decoder.md R266). -/
theorem verifyChecksum_same {s : State} {c : Half} (hc : crc16 s.work = c) (h : Byte) (n : Nat) :
    s.verifyChecksum h c n = (s.setCrc c).decodeCommit h n := by
  simp only [verifyChecksum, enterPhase_work, hc, if_true]
  rfl

/-- VerifyingChecksum with different checksums fails (45_decoder.md R266). -/
theorem verifyChecksum_differ {s : State} {c : Half} (hc : crc16 s.work ≠ c) (h : Byte) (n : Nat) :
    s.verifyChecksum h c n =
      (s.setCrc (crc16 s.work)).decodeFail .checksumMismatch .verifyingChecksum n := by
  simp only [verifyChecksum, enterPhase_work, hc, if_false]
  rfl

/-- ApplyingDelta changes nothing for a keyframe (45_decoder.md R265). -/
theorem applyDelta_key {s : State} {h : Byte} (hk : isKeyHeader h = true) (c : Half) (n : Nat) :
    s.applyDelta h c n = s.verifyChecksum h c n := by
  simp [applyDelta, hk]

/-- ApplyingDelta of a delta with a valid cache (45_decoder.md R265). -/
theorem applyDelta_delta {s : State} {h : Byte} (hk : isKeyHeader h = false) (hv : s.cacheValid = true)
    (c : Half) (n : Nat) :
    s.applyDelta h c n = (s.setWork (xorFrame s.work (s.readFrame .cache))).verifyChecksum h c n := by
  simp only [applyDelta, hk, enterPhase_cacheValid, hv, Bool.false_eq_true, if_false, if_true]
  rfl

/-- ApplyingDelta of a delta without a valid cache (45_decoder.md R265). -/
theorem applyDelta_noHistory {s : State} {h : Byte} (hk : isKeyHeader h = false)
    (hv : s.cacheValid = false) (c : Half) (n : Nat) :
    s.applyDelta h c n = s.decodeFail .deltaWithoutHistory .applyingDelta n := by
  simp [applyDelta, hk, hv]

/-! ### How a record reads -/

/-- No byte left: StreamTruncated in AwaitingHeader (45_decoder.md R262). -/
theorem awaitHeader_empty {s : State} (h : s.unread = []) :
    s.awaitHeader = s.decodeFail .streamTruncated .awaitingHeader s.inPos := by
  rw [awaitHeader]
  simp [inRead_nil (s := s.enterPhase (.working .awaitingHeader)) h]

/-- A header byte leads to DecodingRuns (45_decoder.md R262). -/
theorem awaitHeader_header {s : State} {h : Byte} {source : List Byte} (hu : s.unread = h :: source) :
    s.awaitHeader = (s.advanceInput 1).decodeRuns h s.inPos := by
  rw [awaitHeader]
  simp [inRead_cons (s := s.enterPhase (.working .awaitingHeader)) hu]

/-- A run-list that RleDecode rejects (45_decoder.md R263). -/
theorem awaitHeader_runsFail {s : State} {h : Byte} {source : List Byte} {k : FailKind} {u : Nat}
    (hu : s.unread = h :: source)
    (hr : rleDecode s.cfg.zeroRun s.cfg.frameBytes source = ⟨.err k, u⟩) :
    s.awaitHeader = (s.advanceInput (1 + u)).decodeFail k .decodingRuns s.inPos := by
  have hun : ((s.advanceInput 1).enterPhase (.working .decodingRuns)).unread = source := by
    rw [unread_enterPhase, unread_advanceInput, hu]; rfl
  rw [awaitHeader_header hu, decodeRuns]
  simp only [hun, frameSize, enterPhase_cfg, advanceInput_cfg, hr]
  rw [advanceInput_enterPhase, advanceInput_advanceInput]
  rfl

/-- A run-list that RleDecode accepts: the trailer is read next (45_decoder.md R263). -/
theorem awaitHeader_runs {s : State} {h : Byte} {source out : List Byte} {u : Nat}
    (hu : s.unread = h :: source)
    (hr : rleDecode s.cfg.zeroRun s.cfg.frameBytes source = ⟨.ok out, u⟩) :
    s.awaitHeader = (((s.advanceInput (1 + u)).setWork out).enterPhase (.working .decodingRuns)).readTrailer
      h s.inPos := by
  have hun : ((s.advanceInput 1).enterPhase (.working .decodingRuns)).unread = source := by
    rw [unread_enterPhase, unread_advanceInput, hu]; rfl
  rw [awaitHeader_header hu, decodeRuns]
  simp only [hun, frameSize, enterPhase_cfg, advanceInput_cfg, hr]
  rw [advanceInput_enterPhase, advanceInput_advanceInput, setWork_enterPhase]

/-- A trailer cut off before its first or second byte (45_decoder.md R264). -/
theorem awaitHeader_trailerCut {s : State} {h : Byte} {source out cut : List Byte} {u : Nat}
    (hu : s.unread = h :: source)
    (hr : rleDecode s.cfg.zeroRun s.cfg.frameBytes source = ⟨.ok out, u⟩)
    (hcut : source.drop u = cut) (hlen : cut.length < 2) :
    s.awaitHeader =
      (s.advanceInput (1 + u + cut.length)).decodeFail .streamTruncated .decodingRuns s.inPos := by
  rw [awaitHeader_runs hu hr]
  have hun : (((s.advanceInput (1 + u)).setWork out).enterPhase (.working .decodingRuns)).unread = cut := by
    rw [unread_enterPhase, unread_setWork, unread_advanceInput, hu, Nat.add_comm 1 u]
    simpa using hcut
  match cut, hlen, hun with
  | [], _, hun =>
    rw [readTrailer, inRead_nil hun]
    simp
  | [c], _, hun =>
    rw [readTrailer, inRead_cons hun]
    have h2 : ((((s.advanceInput (1 + u)).setWork out).enterPhase (.working .decodingRuns)).advanceInput 1).unread
        = [] := by rw [unread_advanceInput, hun]; rfl
    simp only [inRead_nil h2]
    simp [advanceInput_advanceInput]

/-- A whole record: the delta phase is entered with the payload in WORK (45_decoder.md R264). -/
theorem awaitHeader_record {s : State} {h t0 t1 : Byte} {source out rest : List Byte} {u : Nat}
    (hu : s.unread = h :: source)
    (hr : rleDecode s.cfg.zeroRun s.cfg.frameBytes source = ⟨.ok out, u⟩)
    (ht : source.drop u = t0 :: t1 :: rest) :
    s.awaitHeader = ((s.advanceInput (u + 3)).setWork out).applyDelta h (storedCrc t0 t1) s.inPos := by
  rw [awaitHeader_runs hu hr]
  have hun : (((s.advanceInput (1 + u)).setWork out).enterPhase (.working .decodingRuns)).unread
      = t0 :: t1 :: rest := by
    rw [unread_enterPhase, unread_setWork, unread_advanceInput, hu, Nat.add_comm 1 u]
    simpa using ht
  rw [readTrailer, inRead_cons hun]
  have h2 : ((((s.advanceInput (1 + u)).setWork out).enterPhase (.working .decodingRuns)).advanceInput 1).unread
      = t1 :: rest := by rw [unread_advanceInput, hun]; rfl
  simp only [inRead_cons h2]
  simp only [advanceInput_enterPhase, advanceInput_setWork, advanceInput_advanceInput, applyDelta_enterPhase]
  congr 3
  omega

/-- VerifyingChecksum of a reconstructed frame `w`: the checksum decides. -/
theorem verifyChecksum_cases (s : State) (w : List Byte) (h : Byte) (c : Half) (n : Nat)
    (hw : w.length = s.cfg.frameBytes) :
    (∃ w' : List Byte, w'.length = s.cfg.frameBytes ∧ crc16 w' ≠ c ∧
      (s.setWork w).verifyChecksum h c n =
        (s.setCrc (crc16 w')).decodeFail .checksumMismatch .verifyingChecksum n) ∨
    (∃ w' : List Byte, w'.length = s.cfg.frameBytes ∧ crc16 w' = c ∧
      (s.setWork w).verifyChecksum h c n = ((s.setCrc c).setWork w').decodeCommit h n) := by
  by_cases hc : crc16 w = c
  · exact .inr ⟨w, hw, hc, verifyChecksum_same (by simpa using hc) h n⟩
  · exact .inl ⟨w, hw, hc, verifyChecksum_differ (by simpa using hc) h n⟩

/-- The end of a delta or keyframe whose record has been read whole: DeltaWithoutHistory, or the
checksum of the reconstructed frame decides. -/
theorem applyDelta_cases (s : State) (h : Byte) (c : Half) (n : Nat)
    (hl : s.work.length = s.cfg.frameBytes) :
    (isKeyHeader h = false ∧ s.cacheValid = false ∧
      s.applyDelta h c n = s.decodeFail .deltaWithoutHistory .applyingDelta n) ∨
    (∃ w : List Byte, w.length = s.cfg.frameBytes ∧ (isKeyHeader h = true ∨ s.cacheValid = true) ∧
      crc16 w ≠ c ∧ s.applyDelta h c n =
        (s.setCrc (crc16 w)).decodeFail .checksumMismatch .verifyingChecksum n) ∨
    (∃ w : List Byte, w.length = s.cfg.frameBytes ∧ (isKeyHeader h = true ∨ s.cacheValid = true) ∧
      crc16 w = c ∧ s.applyDelta h c n = ((s.setCrc c).setWork w).decodeCommit h n) := by
  cases hk : isKeyHeader h with
  | true =>
    rw [applyDelta_key hk]
    have e := verifyChecksum_cases s s.work h c n hl
    rw [show s.setWork s.work = s from rfl] at e
    exact .inr (by simpa using e)
  | false =>
    cases hv : s.cacheValid with
    | false => exact .inl ⟨rfl, rfl, applyDelta_noHistory hk hv c n⟩
    | true =>
      rw [applyDelta_delta hk hv]
      exact .inr (by
        simpa [hv] using verifyChecksum_cases s (xorFrame s.work (s.readFrame .cache)) h c n (by simp [hl]))

/-- Everything a DEC_FRAME can do: fail before the checksum is computed, fail on the checksum, or commit.
`u` is the number of bytes it consumes. -/
theorem awaitHeader_cases (s : State) :
    (∃ u k p, u ≤ s.unread.length ∧ legalDecodeFailure k p = true ∧ k ≠ .checksumMismatch ∧
      (k = .streamTruncated → u = s.unread.length) ∧ (p = .awaitingHeader ↔ u = 0) ∧
      s.awaitHeader = (s.advanceInput u).decodeFail k p s.inPos) ∨
    (∃ u w, u ≤ s.unread.length ∧ w.length = s.cfg.frameBytes ∧
      s.awaitHeader = ((s.advanceInput u).setCrc (crc16 w)).decodeFail
        .checksumMismatch .verifyingChecksum s.inPos) ∨
    (∃ u h w, u ≤ s.unread.length ∧ w.length = s.cfg.frameBytes ∧
      (isKeyHeader h = true ∨ s.cacheValid = true) ∧ s.unread.head? = some h ∧
      s.awaitHeader = (((s.advanceInput u).setCrc (crc16 w)).setWork w).decodeCommit
        h s.inPos) := by
  rcases hu : s.unread with _ | ⟨h, source⟩
  · exact .inl ⟨0, .streamTruncated, .awaitingHeader, by simp, rfl, by simp, by simp, by simp,
      awaitHeader_empty hu⟩
  · have hused := rleDecode_used_le s.cfg.zeroRun s.cfg.frameBytes source
    rcases hr : rleDecode s.cfg.zeroRun s.cfg.frameBytes source with ⟨out | k, u⟩
    · rw [hr] at hused
      have hout : out.length = s.cfg.frameBytes := rleDecode_length (by rw [hr])
      simp only at hused
      by_cases hcut : (source.drop u).length < 2
      · refine .inl ⟨1 + u + (source.drop u).length, .streamTruncated, .decodingRuns, ?_, rfl, by simp, ?_,
          by simp, awaitHeader_trailerCut hu hr rfl hcut⟩
        · simp only [List.length_cons, List.length_drop]; omega
        · intro _; simp only [List.length_cons, List.length_drop]; omega
      · obtain ⟨t0, t1, rest, ht⟩ : ∃ t0 t1 rest, source.drop u = t0 :: t1 :: rest := by
          rcases hd : source.drop u with _ | ⟨t0, _ | ⟨t1, rest⟩⟩
          · simp [hd] at hcut
          · simp [hd] at hcut
          · exact ⟨t0, t1, rest, rfl⟩
        have hle : u + 3 ≤ (h :: source).length := by
          have := congrArg List.length ht
          simp only [List.length_drop, List.length_cons] at this ⊢
          omega
        rw [awaitHeader_record hu hr ht]
        rcases applyDelta_cases ((s.advanceInput (u + 3)).setWork out) h (storedCrc t0 t1) s.inPos
          (by simpa using hout) with ⟨-, -, e⟩ | ⟨w, hw, -, -, e⟩ | ⟨w, hw, hk, hc, e⟩
        · exact .inl ⟨u + 3, _, _, hle, rfl, by simp, by simp, by simp, e⟩
        · exact .inr (.inl ⟨u + 3, w, hle, hw, e⟩)
        · refine .inr (.inr ⟨u + 3, h, w, hle, hw, hk, rfl, ?_⟩)
          rw [e, ← hc]
          rfl
    · rw [hr] at hused
      simp only at hused
      have hk := rleDecode_err_kind (k := k) (by rw [hr])
      refine .inl ⟨1 + u, k, .decodingRuns, by simp only [List.length_cons]; omega, ?_, ?_, ?_, by simp,
        awaitHeader_runsFail hu hr⟩
      · rcases hk with rfl | rfl | rfl <;> rfl
      · rcases hk with rfl | rfl | rfl <;> simp
      · rintro rfl
        have := rleDecode_truncated_used hr
        simp only [List.length_cons]
        omega

end Sys2Proof.Machine.State
end

