-- ==== Sys2Proof/Laws/PerInstr.lean ====
section
/-!
SUPPORT. Statements about every command as syntax, one lemma per constructor.
-/

/-- What every command's encoding satisfies: the decoder reads the command back from its word, and the
word's reserved bits are 0 (30_encoding.md R100, R101). -/
def Sys2Proof.Laws.DecodeEncode.Statement (i : Sys2Proof.Instr) : Prop :=
  Sys2Proof.decode (Sys2Proof.encode i) = .legal i ∧ Sys2Proof.argField (Sys2Proof.encode i) = 0

namespace Sys2Proof.Laws.DecodeEncode

theorem nop : Statement .nop := by unfold Statement; decide
theorem softReset : Statement .softReset := by unfold Statement; decide
theorem invert : Statement .invert := by unfold Statement; decide
theorem classify : Statement .classify := by unfold Statement; decide
theorem stabilize : Statement .stabilize := by unfold Statement; decide
theorem select : Statement .select := by unfold Statement; decide
theorem xorApply : Statement .xorApply := by unfold Statement; decide
theorem rleEnc : Statement .rleEnc := by unfold Statement; decide
theorem rleDec : Statement .rleDec := by unfold Statement; decide
theorem crcGen : Statement .crcGen := by unfold Statement; decide
theorem crcCheck : Statement .crcCheck := by unfold Statement; decide
theorem frameEmit : Statement .frameEmit := by unfold Statement; decide
theorem encClip : Statement .encClip := by unfold Statement; decide
theorem decFrame : Statement .decFrame := by unfold Statement; decide
theorem decRestart : Statement .decRestart := by unfold Statement; decide

end Sys2Proof.Laws.DecodeEncode
end

