-- ==== Sys2Proof/Laws/Step.lean ====
section
/-!
SUPPORT. What a command and a step can do to the frame cache's validity, the recorded decode failure and the
render events, said once: either nothing makes the cache valid and nothing renders, or a DEC_FRAME commits.
-/

namespace Sys2Proof.Machine

/-- `t` comes from `s` without a commit: nothing rendered, no cache made valid, and the recorded failure is
the one before, or none, or new with the cache invalidated as P_FAIL_POLICY says. -/
structure State.NoCommit (s t : State) : Prop where
  renderEvents : t.renderEvents = s.renderEvents
  cacheValid : t.cacheValid = true → s.cacheValid = true
  failure : (t.status.decErr = s.status.decErr ∧ t.cacheValid = s.cacheValid) ∨ t.status.decErr = none ∨
    (s.cfg.failPolicy = .invalidate → t.cacheValid = false)

/-- `t` comes from `s` by a commit: one more render event, and a keyframe where the cache was not valid. -/
structure State.Commit (s t : State) : Prop where
  renderEvents : ∃ e, t.renderEvents = s.renderEvents ++ [e]
  produced : t.status.produced = true
  noFailure : t.status.decErr = none
  keyframe : s.cacheValid = false → t.decHdr.getLsbD 2 = true

/-- A state that keeps the render events, the cache's validity and the recorded failure. -/
theorem State.NoCommit.of_eq {s t : State} (h1 : t.renderEvents = s.renderEvents)
    (h2 : t.cacheValid = s.cacheValid) (h3 : t.status.decErr = s.status.decErr) : s.NoCommit t :=
  ⟨h1, fun h => h2 ▸ h, .inl ⟨h3, h2⟩⟩

/-- A DEC_FRAME commits, or fails having recorded why. -/
theorem execDecFrame_cases {s t : State} (h : execDecFrame s = .next t) :
    (s.NoCommit t ∧ t.status.produced = false ∧ t.status.decErr ≠ none ∧
      (s.cfg.failPolicy = .invalidate → t.cacheValid = false)) ∨ s.Commit t := by
  have valid (k : FailKind) (p : WorkPhase) (u : Nat) (c : Half) :
      s.NoCommit ((({ s with crcResult := c } : State).advanceInput u).decodeFail k p s.inPos).nextDraw ∧
      (s.cfg.failPolicy = .invalidate →
        ((({ s with crcResult := c } : State).advanceInput u).decodeFail k p s.inPos).nextDraw.cacheValid = false) := by
    have hv : s.cfg.failPolicy = .invalidate →
        ((({ s with crcResult := c } : State).advanceInput u).decodeFail k p s.inPos).nextDraw.cacheValid = false :=
      fun hp => if_pos hp
    refine ⟨⟨rfl, fun hc => ?_, .inr (.inr hv)⟩, hv⟩
    by_cases hp : s.cfg.failPolicy = .invalidate
    · rw [hv hp] at hc; cases hc
    · exact (if_neg hp).symm.trans hc
  cases h
  rcases s.awaitHeader_cases with ⟨u, k, p, -, -, -, -, -, e⟩ | ⟨u, w, -, -, e⟩ | ⟨u, h, w, -, -, hk, -, e⟩ <;> rw [e]
  · obtain ⟨h1, h2⟩ := valid k p u s.crcResult
    exact .inl ⟨h1, rfl, by simp [State.nextDraw, State.decodeFail], h2⟩
  · obtain ⟨h1, h2⟩ := valid .checksumMismatch .verifyingChecksum u (crc16 w)
    exact .inl ⟨h1, rfl, by simp [State.nextDraw, State.decodeFail], h2⟩
  · exact .inr ⟨⟨_, rfl⟩, rfl, rfl, fun hv => hk.resolve_right (by simp [hv])⟩

/-- Every command but DEC_FRAME ends without a commit. -/
theorem exec_noCommit {i : Instr} {s t : State} (hi : i ≠ .decFrame) (h : exec i s = .next t) : s.NoCommit t := by
  cases i with
  | decFrame => exact absurd rfl hi
  | rleDec =>
    simp only [exec, execRleDec, Host.Outcome.next.injEq] at h
    subst h
    simp only [State.rleDeliver]
    split <;> exact .of_eq rfl rfl rfl
  | softReset => cases h; exact ⟨rfl, fun h => (nomatch h), .inr (.inl rfl)⟩
  | decRestart => cases h; exact ⟨rfl, fun h => (nomatch h), .inr (.inl rfl)⟩
  | nop => cases h; exact .of_eq rfl rfl rfl
  | invert => cases h; exact .of_eq rfl rfl rfl
  | classify => cases h; exact .of_eq rfl rfl rfl
  | stabilize => cases h; exact .of_eq rfl rfl rfl
  | select => cases h; exact .of_eq rfl rfl rfl
  | xorApply => cases h; exact .of_eq rfl rfl rfl
  | rleEnc => cases h; exact .of_eq rfl rfl rfl
  | crcGen => cases h; exact .of_eq rfl rfl rfl
  | crcCheck => cases h; exact .of_eq rfl rfl rfl
  | frameEmit => cases h; exact .of_eq rfl rfl rfl
  | encClip => cases h; exact .of_eq rfl rfl rfl

/-- A command commits or does not. -/
theorem exec_cases {i : Instr} {s t : State} (h : exec i s = .next t) : s.NoCommit t ∨ s.Commit t := by
  by_cases hi : i = .decFrame
  · subst hi
    exact (execDecFrame_cases h).imp_left And.left
  · exact .inl (exec_noCommit hi h)

/-- A host write of a register stores into registers the host may write, and no other field. -/
theorem State.writeReg_frame (s : State) (r : Reg) (v : Word) :
    s.writeReg r v = { s with
      cmd := (s.writeReg r v).cmd, cfgWindow := (s.writeReg r v).cfgWindow
      clipFrames := (s.writeReg r v).clipFrames, crcExpect := (s.writeReg r v).crcExpect
      runLen := (s.writeReg r v).runLen, selHasPrev := (s.writeReg r v).selHasPrev
      hdrArg := (s.writeReg r v).hdrArg } := by
  cases r <;> rfl

/-- A host write stores into memory or into registers the host may write, and no other field. -/
theorem State.memWrite_frame (s : State) (a : Word) (n : Width) (v : Word) :
    s.memWrite a n v = { s with
      cmd := (s.memWrite a n v).cmd, cfgWindow := (s.memWrite a n v).cfgWindow
      clipFrames := (s.memWrite a n v).clipFrames, crcExpect := (s.memWrite a n v).crcExpect
      runLen := (s.memWrite a n v).runLen, selHasPrev := (s.memWrite a n v).selHasPrev
      hdrArg := (s.memWrite a n v).hdrArg, mem := (s.memWrite a n v).mem } := by
  unfold State.memWrite
  split
  · rename_i r _
    cases r <;> rfl
  · split
    · split <;> rfl
    · rfl

/-- A step commits or does not. -/
theorem step_cases {s t : State} (h : step s = .next t) : s.NoCommit t ∨ s.Commit t := by
  unfold step at h
  split at h
  · cases h; exact .inl (.of_eq rfl rfl rfl)
  · rename_i op rest _
    cases op with
    | read a n => cases h; exact .inl (.of_eq rfl rfl rfl)
    | setInput bs pos => cases h; exact .inl (.of_eq rfl rfl rfl)
    | setSink bs => cases h; exact .inl (.of_eq rfl rfl rfl)
    | powerOn => cases h; exact .inl ⟨rfl, fun h => (nomatch h), .inr (.inl rfl)⟩
    | write a n v =>
      simp only [State.serve] at h
      rw [State.memWrite_frame] at h
      split at h
      · unfold State.hostCommand at h
        split at h
        · exact (exec_cases h).imp (fun c => ⟨c.1, c.2, c.3⟩) (fun c => ⟨c.1, c.2, c.3, c.4⟩)
        · cases h; exact .inl (.of_eq rfl rfl rfl)
      · cases h; exact .inl (.of_eq rfl rfl rfl)

end Sys2Proof.Machine
end

