-- ==== Sys2Proof/Tests/Slice0.lean ====
section
/-!
SUPPORT. The model's own tests: ill-formed parameters refused, every command word decoded, one step of each
command on the vectors of spec/95_test_vectors.md (each test names its vector; the expected values are the
spec's), and for every statement with hypotheses a concrete state and operands that meet them.
-/

namespace Sys2Proof.Tests

open Sys2Proof.Machine

/-! ### Small states -/

/-- The test geometry of 95_test_vectors.md: P_W = 16, P_H = 4, N = 8; 16 clip frames. -/
def small : Params where
  width := 16
  height := 4
  maxFrames := 16
  pixelOrder := .msbFirst
  zeroRun := .reject
  failPolicy := .invalidate
  outConv := .raw
  base := 0

/-- The small machine after power-on. -/
def start : State := State.afterPowerOn small

/-- A machine with bytes at the start of a window. -/
def loaded (s : State) (w : Window) (bs : List Byte) : State := s.writeWindow w bs

/-- The small machine with an input stream, at its first byte. -/
def fed (bs : List Byte) : State := { start with inBytes := bs }

/-- The state a command leaves. -/
def after (i : Instr) (s : State) : State :=
  match exec i s with
  | .next t => t
  | .fault _ => s
  | .refused _ => s

/-- The state a step leaves, serving one host event. -/
def served (op : HostOp) (s : State) : State :=
  match step { s with hostQueue := [op] } with
  | .next t => t
  | .fault _ => s
  | .refused _ => s

/-- A host read. -/
def got (a : Nat) (n : Width) (s : State) : Word := s.memRead (BitVec.ofNat 32 a) n

/-- `bs` four times. -/
def four (bs : List Byte) : List Byte := bs ++ bs ++ bs ++ bs

/-- Record K0 of T-DEC: a keyframe of 00×8. -/
def recK0 : List Byte := [0x04, 0x08, 0x00, 0x3E, 0x31]

/-- Record DL1 of T-DEC: a delta with payload 80 00×4. -/
def recDL1 : List Byte := [0x01] ++ four [0x01, 0x80, 0x01, 0x00] ++ [0x3F, 0xDE]

/-- The small machine after K0 was decoded, DL1 next in the input (T-DEC X2 before its second command). -/
def afterK0 : State :=
  { (loaded (fed (recK0 ++ recDL1)) .cache (List.replicate 8 0)) with
    inPos := 5, cacheValid := true, decHdr := 0x04, decConsumed := 5, crcResult := 0x313E
    phase := .committed
    status := { Status.cleared with ok := true, produced := true } }

/-! ### Well-formedness refuses ill-formed parameters (one for each check) -/

theorem small_wf : small.wf = true := by decide

theorem test_wf_refuses_narrow : Params.wf { small with width := 0 } = false := by decide
theorem test_wf_refuses_wide : Params.wf { small with width := 65536, height := 1 } = false := by decide
theorem test_wf_refuses_ragged : Params.wf { small with width := 17 } = false := by decide
theorem test_wf_refuses_flat : Params.wf { small with height := 0 } = false := by decide
theorem test_wf_refuses_large_frame : Params.wf { small with width := 65528, height := 5 } = false := by decide
theorem test_wf_refuses_no_clip : Params.wf { small with maxFrames := 0 } = false := by decide
theorem test_wf_refuses_long_clip : Params.wf { small with maxFrames := 65537 } = false := by decide
theorem test_wf_takes_largest : Params.wf { small with width := 32768, height := 8, maxFrames := 65536 } = true := by
  decide

/-! ### Decoding: the words of 30_encoding.md R101, bit by bit -/

theorem test_decode_control :
    decode 0b00000000000000000000000000000000 = .legal .nop ∧
    decode 0b00000000000000000000000000000001 = .legal .softReset := by decide

theorem test_decode_border :
    decode 0b00000000000000000000000000010000 = .legal .invert ∧
    decode 0b00000000000000000000000000010001 = .legal .classify ∧
    decode 0b00000000000000000000000000010010 = .legal .stabilize := by decide

theorem test_decode_selector :
    decode 0b00000000000000000000000000100000 = .legal .select ∧
    decode 0b00000000000000000000000000100001 = .legal .xorApply := by decide

theorem test_decode_rle :
    decode 0b00000000000000000000000000110000 = .legal .rleEnc ∧
    decode 0b00000000000000000000000000110001 = .legal .rleDec := by decide

theorem test_decode_crc :
    decode 0b00000000000000000000000001000000 = .legal .crcGen ∧
    decode 0b00000000000000000000000001000001 = .legal .crcCheck := by decide

theorem test_decode_framer :
    decode 0b00000000000000000000000001010000 = .legal .frameEmit ∧
    decode 0b00000000000000000000000001010001 = .legal .encClip := by decide

theorem test_decode_decoder :
    decode 0b00000000000000000000000001100000 = .legal .decFrame ∧
    decode 0b00000000000000000000000001100001 = .legal .decRestart := by decide

/-- T-CTL K1 to K3. -/
theorem test_decode_reserved :
    decode 0x00000002 = .illegal .opcodeReserved ∧ decode 0x00000160 = .illegal .argReserved ∧
    decode 0x00000062 = .illegal .opcodeReserved ∧ decode 0x000000FF = .illegal .opcodeReserved ∧
    decode 0x80000000 = .illegal .argReserved := by decide

/-! ### One step of each command -/

/-- T-CTL K4. -/
theorem test_nop_clears_illegal :
    (served (hostCmd .nop) { start with cmd := 2, status := { Status.cleared with illegal := true } }).readReg
      .status = 0x00000001 := by decide

/-- T-CTL K5. -/
theorem test_soft_reset :
    let t := served (hostCmd .softReset) (loaded
      { start with cacheValid := true, decHdr := 0x07, cfgWindow := 3, inPos := 1, inBytes := [0, 0] }
      .fbA (List.replicate 8 0x11))
    t.readReg .cmd = 0 ∧ t.readReg .status = 1 ∧ t.cacheValid = false ∧ t.readReg .decHdr = 0 ∧
    t.readReg .cfgWindow = 15 ∧ t.readFrame .fbA = List.replicate 8 0x11 ∧ t.inPos = 1 := by decide

/-- T-BORDER B2. -/
theorem test_invert :
    (after .invert (loaded start .fbA (four [0x7F, 0xFE]))).readFrame .fbA = four [0x80, 0x01] := by
  decide

/-- T-BORDER B5: a tie is black. -/
theorem test_classify_tie :
    let t := after .classify (loaded start .fbA [0x80, 0x01, 0x80, 0x01, 0x80, 0x00, 0x00, 0x00])
    t.readReg .white = 0x00020003 ∧ t.readReg .cls = 0x1 := by decide

/-- T-BORDER B7: both columns in one byte. -/
theorem test_classify_one_byte_rows :
    let t := after .classify (loaded (State.afterPowerOn { small with width := 8, height := 3 })
      .fbA [0x81, 0x80, 0x01])
    t.readReg .white = 0x00020002 ∧ t.readReg .cls = 0x3 := by decide

/-- T-BORDER B15 (window 3). -/
theorem test_stabilize_window_three :
    (after .stabilize (loaded { start with clipFrames := 7, cfgWindow := 3 }
      .seqMaj [0, 1, 1, 0, 1, 1, 1])).readBytes 0x00080000 7 = [0, 0, 0, 0, 1, 1, 1] := by decide

/-- T-BORDER B17: the sides are stabilized each on its own. -/
theorem test_stabilize_sides :
    (after .stabilize (loaded { start with clipFrames := 5, cfgWindow := 2 }
      .seqMaj [0, 0, 3, 0, 2])).readBytes 0x00080000 5 = [0, 0, 0, 0, 2] := by decide

/-- T-SEL S3: exactly three quarters is a delta. -/
theorem test_select_threshold :
    let t := after .select (loaded (loaded { start with selHasPrev := true }
      .fbA [1, 1, 1, 1, 1, 1, 0, 0]) .fbB (List.replicate 8 0))
    t.nzCount = 6 ∧ t.status.key = false ∧ t.readFrame .fbC = [1, 1, 1, 1, 1, 1, 0, 0] := by decide

/-- T-SEL S5: a keyframe carries the frame, not the XOR. -/
theorem test_select_keyframe :
    let t := after .select (loaded (loaded { start with selHasPrev := true }
      .fbA (List.replicate 8 0xFF)) .fbB (four [0x80, 0x00]))
    t.nzCount = 8 ∧ t.status.key = true ∧ t.readFrame .fbC = List.replicate 8 0xFF := by decide

/-- T-SEL S9. -/
theorem test_xor_apply :
    (after .xorApply (loaded (loaded start .fbC (four [0x00, 0x01])) .fbB (four [0x80, 0x00]))).readFrame
      .fbC = four [0x80, 0x01] := by decide

/-- T-RLE E1. -/
theorem test_rle_enc :
    let t := after .rleEnc (loaded start .fbC [0, 0, 0, 5, 5, 0, 0, 0])
    t.runLen = 6 ∧ t.readRunList = [3, 0, 2, 5, 3, 0] := by decide

/-- T-RLE run splitting: L = 255, 256 and 510. -/
theorem test_rle_enc_splits :
    rleEncode (List.replicate 255 7) = [0xFF, 7] ∧ rleEncode (List.replicate 256 7) = [0xFF, 7, 1, 7] ∧
    rleEncode (List.replicate 510 7) = [0xFF, 7, 0xFF, 7] := by decide +kernel

/-- T-RLE D3: bytes after the completing pair are not read. -/
theorem test_rle_dec_trailing :
    let t := after .rleDec (loaded { start with runLen := 4 } .runbuf [8, 0, 5, 5])
    t.runPos = 2 ∧ t.readReg .status = 1 ∧ t.readFrame .fbC = List.replicate 8 0 := by decide

/-- T-RLE D9: the failing pair counts as consumed, FB_C stays. -/
theorem test_rle_dec_overflow :
    let t := after .rleDec (loaded (loaded { start with runLen := 4 } .runbuf [5, 0, 4, 1])
      .fbC (List.replicate 8 0x5A))
    t.runPos = 4 ∧ t.readReg .status = 0x00002000 ∧ t.readFrame .fbC = List.replicate 8 0x5A := by
  decide

/-- T-CRC: check values of the function. -/
theorem test_crc_check_values :
    crc16 [0x31, 0x32, 0x33, 0x34, 0x35, 0x36, 0x37, 0x38, 0x39] = 0x29B1 ∧ crc16 [] = 0xFFFF ∧
    crc16 [0x00] = 0xE1F0 ∧ crc16 [0xFF] = 0xFF00 ∧ crc16 [0x80] = 0x7078 ∧ crc16 [0x00, 0x01] = 0x0D2E := by
  decide +kernel

/-- T-CRC C2. -/
theorem test_crc_gen :
    (after .crcGen (loaded start .fbA (four [0x80, 0x00]))).crcResult = 0xDE3F := by decide +kernel

/-- T-CRC C3. -/
theorem test_crc_check_match :
    let t := after .crcCheck (loaded { start with crcExpect := 0xEB1E } .fbC (four [0x80, 0x01]))
    t.crcResult = 0xEB1E ∧ t.readReg .status = 0x00000021 := by decide +kernel

/-- T-CRC C4. -/
theorem test_crc_check_mismatch :
    let t := after .crcCheck (loaded { start with crcExpect := 0xEB1F } .fbC (four [0x80, 0x01]))
    t.crcResult = 0xEB1E ∧ t.readReg .status = 0 := by decide +kernel

/-- T-FRM F1. -/
theorem test_frame_emit :
    let t := after .frameEmit (loaded { start with hdrArg := 0x04, runLen := 2, crcResult := 0x313E }
      .runbuf [8, 0])
    t.outBytes = [0x04, 0x08, 0x00, 0x3E, 0x31] ∧ t.encBytes = 5 := by decide

/-- T-FRM F2: nothing is validated. -/
theorem test_frame_emit_unchecked :
    let t := after .frameEmit { start with hdrArg := 0xFF, crcResult := 0x1234, encBytes := 7 }
    t.outBytes = [0xFF, 0x34, 0x12] ∧ t.encBytes = 10 := by decide

/-- The first three frames of P1's clip: all black, left white, both columns white. -/
def clip3 : List Byte := List.replicate 8 0xFF ++ four [0x7F, 0xFF] ++ four [0x7F, 0xFE]

/-- P1 with its first two frames: a keyframe, then a delta. -/
theorem test_enc_clip :
    let t := after .encClip (loaded { start with clipFrames := 2, cfgWindow := 2 } .clipMem clip3)
    t.outBytes = recK0 ++ recDL1 ∧ t.encBytes = 24 ∧ t.readBytes 0x00070000 2 = [0, 1] := by decide +kernel

/-- T-FRM F5 with its first three frames, window 1: the third header is 0x03. -/
theorem test_enc_clip_window_one :
    let t := after .encClip (loaded { start with clipFrames := 3, cfgWindow := 1 } .clipMem clip3)
    t.outBytes.drop 24 = [0x03] ++ four [0x01, 0x00, 0x01, 0x01] ++ [0x1E, 0xEB] ∧
    t.readBytes 0x00080000 3 = [0, 1, 3] := by decide +kernel

/-- T-DEC X2, the second command: a delta commits. -/
theorem test_dec_frame_delta :
    let t := after .decFrame afterK0
    t.readFrame .cache = four [0x80, 0x00] ∧ t.frameOut = four [0x7F, 0xFF] ∧ t.decHdr = 0x01 ∧
    t.decConsumed = 19 ∧ t.inPos = 24 ∧ t.crcResult = 0xDE3F ∧ t.readReg .status = 0x0000000D ∧
    t.renderEvents = [⟨four [0x7F, 0xFF], true, false⟩] := by decide +kernel

/-- T-DEC X12: DeltaWithoutHistory comes before the checksum. -/
theorem test_dec_frame_no_history :
    let t := after .decFrame (fed [0x00, 0x08, 0x00, 0xFF, 0xFF])
    t.readReg .status = 0x00030400 ∧ t.inPos = 5 ∧ t.crcResult = 0 := by decide

/-- T-DEC X13. -/
theorem test_dec_restart :
    let t := after .decRestart afterK0
    t.inPos = 0 ∧ t.cacheValid = false ∧ t.readFrame .cache = List.replicate 8 0 ∧ t.decHdr = 0x04 ∧
    t.decConsumed = 0 ∧ t.readReg .status = 1 := by decide

/-! ### The host bus -/

/-- T-CTL K1. -/
theorem test_illegal_word :
    let t := served (.write 0 .four 2) start
    t.readReg .cmd = 2 ∧ t.readReg .status = 2 := by decide

/-- T-CTL K2. -/
theorem test_illegal_argument :
    (served (.write 0 .four 0x160) (fed recK0)).inPos = 0 := by decide

/-- T-CTL K6 to K9, K11: little-endian; misaligned, byte-wide register and out-of-size reads are 0. -/
theorem test_bus_reads :
    let s := loaded { start with status := { Status.cleared with ok := true } } .fbA [1, 2, 3, 4, 5, 6, 7, 8]
    got 0x48 .four s = 0 ∧ got 0x00010000 .four s = 0x04030201 ∧ got 0x00010001 .two s = 0 ∧
    got 0x04 .one s = 0 ∧ got 0x04 .four s = 1 ∧ got 0x00010008 .one s = 0 ∧ got 0x00010007 .one s = 8 := by
  decide

/-- T-CTL K10. -/
theorem test_cache_write_ignored : served (.write 0x00050000 .one 0x55) start = start := by decide

/-- T-CTL K12. -/
theorem test_geometry_registers :
    got 0x0C .four start = 0x00040010 ∧ got 0x10 .four start = 0x00000008 := by decide

/-- T-BORDER B19, T-RLE D14, T-CRC C5. -/
theorem test_register_legalisation :
    (served (hostWr .cfgWindow 0) start).readReg .cfgWindow = 1 ∧
    (served (hostWr .runLen 0xFFFFFFFF) start).readReg .runLen = 16 ∧
    (served (hostWr .crcExpect 0x1234EB1E) start).readReg .crcExpect = 0x0000EB1E := by decide

/-- 60_exceptions.md R334: with nothing pending the core holds its state. -/
theorem test_idle : step start = .next start := rfl

/-- A step runs the command placed by `withFetchWord`. -/
theorem test_fetch : step (start.withFetchWord 32 0x61) = exec .decRestart { start with cmd := 0x61 } := rfl

/-! ### Witnesses: every statement's hypotheses are met together, each clause at a boundary value -/

/-- CommandWordsDecodeExactly: a word for each rejecting clause (the first reserved argument bit, the first
opcode after the table's last row). -/
theorem witness_CommandWordsDecodeExactly :
    argField 0x00000100 ≠ 0 ∧ argField 0x00000062 = 0 ∧ ∀ i, opcodeField 0x00000062 ≠ opcode i := by
  refine ⟨by decide, by decide, fun i => ?_⟩
  cases i <;> decide

/-- StepExecutesCommandWrite. -/
theorem witness_StepExecutesCommandWrite :
    ({ start with hostQueue := [.write 0 .four 0x60] } : State).hostQueue = .write 0 .four 0x60 :: [] ∧
    decode 0x60 = .legal .decFrame := by decide

/-- IllegalWordOnlySetsIllegal, its last clause too: a NOP follows. -/
theorem witness_IllegalWordOnlySetsIllegal :
    ({ start with hostQueue := [.write 0 .four 2, hostCmd .nop] } : State).hostQueue
      = .write 0 .four 2 :: [hostCmd .nop] ∧
    (∀ i, (2 : Word) ≠ encode i) ∧ [hostCmd .nop] = hostCmd .nop :: [] := by
  refine ⟨rfl, fun i => ?_, rfl⟩
  cases i <;> decide

/-- CommandsWriteOnlyTheirStatusFields: a command each clause speaks of. -/
theorem witness_CommandsWriteOnlyTheirStatusFields :
    Instr.rleDec ≠ .select ∧ Instr.rleDec ≠ .softReset ∧ Instr.select ≠ .crcCheck ∧ Instr.select ≠ .rleDec ∧
    Instr.select ≠ .softReset ∧ Instr.select ≠ .decFrame ∧ Instr.select ≠ .decRestart := by decide

/-- PowerOnRegisterValues, RegisterWritesAreLegalised and every other statement whose one hypothesis is that
the parameters are legal: the test geometry, and the largest frame. -/
theorem witness_legal_parameters :
    start.cfg.wf = true ∧
    (State.afterPowerOn { small with width := 32768, height := 8, maxFrames := 65536 }).cfg.wf = true := by
  decide

/-- AccessOutsideMapIsIgnored: a byte access and a misaligned one to the registers, the first reserved
offset and the last, a misaligned access and one beyond the used size, one below the first window. -/
theorem witness_AccessOutsideMapIsIgnored :
    (0x04 < 0x100 ∧ Width.one ≠ .four) ∧ (0xFE < 0x100 ∧ 0xFE % 4 ≠ 0) ∧ (0x48 < 0x100 ∧ 0x48 ≤ 0x48) ∧
    0xFC < 0x100 ∧ (0x100 ≤ 0x10001 ∧ 0x10001 % Width.two.bytes ≠ 0) ∧
    (∀ w : Window, ¬ (w.base ≤ 0x10008 ∧ 0x10008 + Width.one.bytes ≤ w.base + w.size start.cfg)) ∧
    (∀ w : Window, ¬ (w.base ≤ 0x100 ∧ 0x100 + Width.four.bytes ≤ w.base + w.size start.cfg)) := by
  refine ⟨by decide, by decide, by decide, by decide, by decide, fun w => ?_, fun w => ?_⟩ <;>
    cases w <;> decide

/-- StatusWordLayout: a word with the last code of DEC_ERR and of FAIL_PHASE and the first of RLE_ERR. -/
theorem witness_StatusWordLayout :
    let s := { start with status := { Status.cleared with
      decErr := some .zeroRun, rleErr := some .streamTruncated, failPhase := some .verifyingChecksum } }
    0x00041500 = s.memRead 0x04 .four ∧ s.status.decErr = some .zeroRun ∧
    s.status.rleErr = some .streamTruncated ∧ s.status.failPhase = some .verifyingChecksum := by decide

/-- PowerOnKeepsEnvironment. -/
theorem witness_PowerOnKeepsEnvironment :
    ({ afterK0 with hostQueue := [.powerOn, hostCmd .nop] } : State).hostQueue = .powerOn :: [hostCmd .nop] := by
  decide

/-- HostBusIsLittleEndian: the last word of FB_A, of SEQ_STB and of FRAME_OUT (reads only), the last byte of
CLIP_MEM. -/
theorem witness_HostBusIsLittleEndian :
    start.cfg.wf = true ∧
    (Window.fbA ∉ [Window.cache, .frameOut] ∧ 0x00010004 % Width.four.bytes = 0 ∧
      Window.fbA.base ≤ 0x00010004 ∧ 0x00010004 + Width.four.bytes ≤ Window.fbA.base + Window.fbA.size small) ∧
    (Window.seqStb ∉ [Window.cache, .frameOut] ∧ 0x0008000C % Width.four.bytes = 0 ∧
      Window.seqStb.base ≤ 0x0008000C ∧
      0x0008000C + Width.four.bytes ≤ Window.seqStb.base + Window.seqStb.size small) ∧
    (0x00060004 % Width.four.bytes = 0 ∧ Window.frameOut.base ≤ 0x00060004 ∧
      0x00060004 + Width.four.bytes ≤ Window.frameOut.base + Window.frameOut.size small) ∧
    (Window.clipMem ∉ [Window.cache, .frameOut] ∧ 0x1000007F % Width.one.bytes = 0 ∧
      Window.clipMem.base ≤ 0x1000007F ∧
      0x1000007F + Width.one.bytes ≤ Window.clipMem.base + Window.clipMem.size small) := by decide

/-- CacheIsReadOnlyToHost: the first byte of CACHE and the last of FRAME_OUT's window. -/
theorem witness_CacheIsReadOnlyToHost :
    start.cfg.wf = true ∧
    (Window.cache ∈ [Window.cache, .frameOut] ∧ Window.cache.base ≤ 0x00050000 ∧
      0x00050000 < Window.cache.base + 0x10000) ∧
    (Window.frameOut ∈ [Window.cache, .frameOut] ∧ Window.frameOut.base ≤ 0x0006FFFF ∧
      0x0006FFFF < Window.frameOut.base + 0x10000) := by decide

/-- FrameOutIsViewOfCache: the last byte, under both conventions. -/
theorem witness_FrameOutIsViewOfCache :
    start.cfg.wf = true ∧ 7 < start.cfg.frameBytes ∧ start.cfg.outConv = .raw ∧
    Params.wf { small with outConv := .stream } = true := by decide

/-- HostReadHasNoSideEffect. -/
theorem witness_HostReadHasNoSideEffect :
    ({ start with hostQueue := [hostRd .status, hostCmd .nop] } : State).hostQueue
      = .read (BitVec.ofNat 32 4) .four :: [hostCmd .nop] := by decide

/-- StabilizerFrameRule: a clip of two frames and window 1. -/
theorem witness_StabilizerFrameRule :
    1 ≤ 1 ∧ 0 < [false, true].length ∧ 0 + 1 < [false, true].length := by decide

/-- StabilizerSuppressesBlips: V3, one differing frame, window 2, at frame 1. -/
theorem witness_StabilizerSuppressesBlips :
    1 ≤ 1 ∧ 1 < 2 ∧ (stabilize 2 [false, false, true, false, false])[1]? = some false ∧
    (∀ j, 1 ≤ j → j ≤ 1 → [false, false, true, false, false][1 + j]? = some (!false)) ∧
    [false, false, true, false, false][1 + 1 + 1]? = some false := by
  refine ⟨by decide, by decide, by decide, fun j h1 h2 => ?_, by decide⟩
  obtain rfl : j = 1 := by omega
  decide

/-- StabilizeWritesSequences: a nonempty sequence (the command runs in every state). -/
theorem witness_StabilizeWritesSequences :
    0 < ({ start with clipFrames := 1 } : State).clipFrames.toNat := by decide

/-- KeyframeThreshold's last clause: the default geometry. -/
theorem witness_KeyframeThreshold : Params.frameBytes { small with width := 80, height := 64 } = 640 := by decide

/-- SelectChoosesPayload: both values of HAS_PREV. -/
theorem witness_SelectChoosesPayload :
    start.cfg.wf = true ∧ start.selHasPrev = false ∧ ({ start with selHasPrev := true } : State).selHasPrev = true := by
  decide

/-- XorApplyIsSelfInverse: FB_B written. -/
theorem witness_XorApplyIsSelfInverse :
    start.cfg.wf = true ∧ ∀ i, i < start.cfg.frameBytes →
      ∃ b, (loaded start .fbB (List.replicate 8 0x3C)).byteAt (Window.fbB.base + i) = some b := by
  have all : ∀ i, i < 8 → ((loaded start .fbB (List.replicate 8 0x3C)).byteAt (Window.fbB.base + i)).isSome = true := by
    decide
  exact ⟨small_wf, fun i hi => Option.isSome_iff_exists.mp (all i hi)⟩

/-- RleEncodeGivesCanonicalRuns. -/
theorem witness_RleEncodeGivesCanonicalRuns : [(7 : Byte)] ≠ [] := by decide

/-- EncodingIsTheCanonicalRunList: a full run, then the rest of the same value. -/
theorem witness_EncodingIsTheCanonicalRunList :
    legalRuns [(255, 7), (1, 7)] ∧ canonicalRuns [(255, (7 : Byte)), (1, 7)] := by
  refine ⟨by unfold legalRuns; decide, ⟨fun _ => rfl, trivial⟩⟩

/-- RleDecodeAcceptsAnyRunList: a run-list that is not canonical (T-RLE D13). -/
theorem witness_RleDecodeAcceptsAnyRunList : legalRuns [(1, 7), (1, 7), (6, 7)] := by
  unfold legalRuns; decide

/-- RleDecodeErrors: 5 bytes of 8 produced; a count one too large, and both treatments of a zero count. -/
theorem witness_RleDecodeErrors :
    legalRuns [(5, 0)] ∧ runTotal [(5, (0 : Byte))] < 8 ∧ (4 : Byte).toNat > 8 - runTotal [(5, (0 : Byte))] ∧
    small.zeroRun = .reject ∧ Params.zeroRun { small with zeroRun := .accept } = .accept := by
  unfold legalRuns; decide

/-- RleDecDelivers: a run-list that completes and one that fails. -/
theorem witness_RleDecDelivers :
    rleDecode .reject 8 [8, 0] = { result := .ok (List.replicate 8 0), used := 2 } ∧
    rleDecode .reject 8 [9, 0] = { result := .err .runOverflow, used := 2 } := by decide

/-- CrcDetectsOneChangedByte: the last byte. -/
theorem witness_CrcDetectsOneChangedByte : 7 < (List.replicate 8 (0 : Byte)).length ∧ (0x80 : Byte) ≠ 0 := by decide

/-- CrcIsAffine. -/
theorem witness_CrcIsAffine : [(1 : Byte), 2].length = [(3 : Byte), 4].length := rfl

/-- A clip of two frames, all white, then all black but for one byte. -/
def clip2 : List (List Byte) := [List.replicate 8 0x00, 0x5A :: List.replicate 7 0xFF]

/-- A machine with that clip in CLIP_MEM and a valid cache, between commands. -/
def goodState : State :=
  { loaded (loaded start .cache (List.replicate 8 0x5A)) .clipMem clip2.flatten with
    clipFrames := 2, cacheValid := true, decHdr := 0x04, phase := .committed
    status := { Status.cleared with ok := true, produced := true }
    hostQueue := [hostCmd .encClip] }

/-- The same machine with its cache invalid. -/
def goodColdState : State := after .decRestart goodState

/-- EncodedStreamIsRecords: a clip of two frames. -/
theorem witness_EncodedStreamIsRecords :
    0 < [List.replicate 8 (0xFF : Byte), List.replicate 8 0].length ∧
    1 < [List.replicate 8 (0xFF : Byte), List.replicate 8 0].length ∧ 1 = 0 + 1 := by decide

/-- EncClipWritesStream: two frames. -/
theorem witness_EncClipWritesStream :
    goodState.cfg.wf = true ∧ goodState.clipFrames.toNat ≤ goodState.cfg.maxFrames ∧
    clip2 = (List.range goodState.clipFrames.toNat).map
      (fun f => (List.range goodState.cfg.frameBytes).map
        (fun i => goodState.readByte (Window.clipMem.base + f * goodState.cfg.frameBytes + i))) := by
  decide

/-- ComponentCommandsEmitFrame with no previous frame: FB_B is not written. -/
theorem witness_ComponentCommandsEmitFrame_first :
    let s := loaded start .fbA (four [0x7F, 0xFE])
    s.cfg.wf = true ∧ s.selHasPrev = false ∧ s.byteAt Window.fbB.base = none ∧
    four [0x80, 0x01] = (List.range s.cfg.frameBytes).map (fun i => not8 (s.readByte (Window.fbA.base + i))) := by
  decide

/-- ComponentCommandsEmitFrame with a previous frame: the premises of program P4. -/
theorem witness_ComponentCommandsEmitFrame :
    let s := loaded (loaded { start with selHasPrev := true } .fbA (four [0x7F, 0xFE])) .fbB (four [0x80, 0x00])
    s.cfg.wf = true ∧ s.selHasPrev = true ∧
    four [0x80, 0x01] = (List.range s.cfg.frameBytes).map (fun i => not8 (s.readByte (Window.fbA.base + i))) ∧
    (four [(0x80 : Byte), 0x00]).length = s.cfg.frameBytes ∧ s.HoldsBytes Window.fbB.base (four [0x80, 0x00]) := by
  refine ⟨by decide, rfl, by decide, by decide, ?_⟩
  unfold State.HoldsBytes
  decide

/-- DecodeFollowsPhases, each clause: no byte left; a failing run-list; a trailer with one byte; a delta
without history; a keyframe with a wrong and with the right checksum. -/
theorem witness_DecodeFollowsPhases :
    (fed []).unread = [] ∧
    (rleDecode .reject 8 [0x09, 0x00]).result = .err .runOverflow ∧
    ((rleDecode .reject 8 [0x08, 0x00, 0x3E]).result = .ok (List.replicate 8 0) ∧
      ([(0x08 : Byte), 0x00, 0x3E].drop (rleDecode .reject 8 [0x08, 0x00, 0x3E]).used).length < 2) ∧
    ((fed recK0).unread = 0x04 :: [0x08, 0x00, 0x3E, 0x31] ∧
      (rleDecode .reject 8 [0x08, 0x00, 0x3E, 0x31]).result = .ok (List.replicate 8 0) ∧
      [(0x08 : Byte), 0x00, 0x3E, 0x31].drop (rleDecode .reject 8 [0x08, 0x00, 0x3E, 0x31]).used = [0x3E, 0x31]) ∧
    ((0x00 : Byte).getLsbD 2 = false ∧ (fed recK0).cacheValid = false) ∧ (0x04 : Byte).getLsbD 2 = true ∧
    (crc16 (List.replicate 8 0)).toNat = (0x3E : Byte).toNat + 256 * (0x31 : Byte).toNat ∧
    (crc16 (List.replicate 8 0)).toNat ≠ (0x3E : Byte).toNat + 256 * (0x30 : Byte).toNat := by decide +kernel

/-- WholeRecordCommits, the keyframe K0. -/
theorem witness_WholeRecordCommits_key :
    let s := fed (recK0 ++ [0x55])
    s.cfg.wf = true ∧ s.unread = 0x04 :: (serialiseRuns [(8, 0)] ++ 0x3E :: 0x31 :: [0x55]) ∧
    legalRuns [(8, 0)] ∧ runTotal [(8, (0 : Byte))] = s.cfg.frameBytes ∧
    ((0x04 : Byte).getLsbD 2 = true ∧ List.replicate 8 0 = expandRuns [(8, (0 : Byte))]) ∧
    (crc16 (List.replicate 8 0)).toNat = (0x3E : Byte).toNat + 256 * (0x31 : Byte).toNat := by
  unfold legalRuns; decide +kernel

/-- WholeRecordCommits, a delta: X14's second record after K0. -/
theorem witness_WholeRecordCommits_delta :
    let s := { afterK0 with inBytes := recK0 ++ [0x01, 0x08, 0x00, 0x3E, 0x31] }
    s.cfg.wf = true ∧ s.unread = 0x01 :: (serialiseRuns [(8, 0)] ++ 0x3E :: 0x31 :: []) ∧
    legalRuns [(8, 0)] ∧ runTotal [(8, (0 : Byte))] = s.cfg.frameBytes ∧
    ((0x01 : Byte).getLsbD 2 = false ∧ s.cacheValid = true ∧ List.replicate 8 0 =
      xorFrame (expandRuns [(8, 0)])
        ((List.range s.cfg.frameBytes).map (fun i => s.readByte (Window.cache.base + i)))) ∧
    (crc16 (List.replicate 8 0)).toNat = (0x3E : Byte).toNat + 256 * (0x31 : Byte).toNat := by
  unfold legalRuns; decide +kernel

/-- WholeRecordFailures, both clauses: X12 (no history, though the checksum is wrong too) and X6. -/
theorem witness_WholeRecordFailures :
    ((fed [0x00, 0x08, 0x00, 0xFF, 0xFF]).cfg.wf = true ∧
      (fed [0x00, 0x08, 0x00, 0xFF, 0xFF]).unread = 0x00 :: (serialiseRuns [(8, 0)] ++ 0xFF :: 0xFF :: []) ∧
      (0x00 : Byte).getLsbD 2 = false ∧ (fed [0x00, 0x08, 0x00, 0xFF, 0xFF]).cacheValid = false) ∧
    ((fed [0x04, 0x08, 0x00, 0x3E, 0x30]).unread = 0x04 :: (serialiseRuns [(8, 0)] ++ 0x3E :: 0x30 :: []) ∧
      (0x04 : Byte).getLsbD 2 = true ∧
      (crc16 (expandRuns [(8, 0)])).toNat ≠ (0x3E : Byte).toNat + 256 * (0x30 : Byte).toNat) ∧
    legalRuns [(8, 0)] ∧ runTotal [(8, (0 : Byte))] = start.cfg.frameBytes := by
  unfold legalRuns; decide +kernel

/-- BadRunListFails, both clauses: X7 (a count one too large) and a zero count after five bytes. -/
theorem witness_BadRunListFails :
    (fed [0x04, 0x05, 0x00, 0x04, 0x00]).unread = 0x04 :: (serialiseRuns [(5, 0)] ++ 0x04 :: 0x00 :: []) ∧
    (fed [0x04, 0x05, 0x00, 0x00, 0x01]).unread = 0x04 :: (serialiseRuns [(5, 0)] ++ 0x00 :: 0x01 :: []) ∧
    legalRuns [(5, 0)] ∧ runTotal [(5, (0 : Byte))] < start.cfg.frameBytes ∧
    (0x04 : Byte).toNat > start.cfg.frameBytes - runTotal [(5, (0 : Byte))] ∧ start.cfg.zeroRun = .reject := by
  unfold legalRuns; decide

/-- TruncatedRecordFails: K0 cut before its first byte and before its last. -/
theorem witness_TruncatedRecordFails :
    legalRuns [(8, 0)] ∧ runTotal [(8, (0 : Byte))] = start.cfg.frameBytes ∧ 0 < 3 + 2 * 1 ∧ 4 < 3 + 2 * 1 ∧
    (fed []).unread = (0x04 :: (serialiseRuns [(8, (0 : Byte))] ++ [0x3E, 0x31])).take 0 ∧
    (fed [0x04, 0x08, 0x00, 0x3E]).unread = (0x04 :: (serialiseRuns [(8, (0 : Byte))] ++ [0x3E, 0x31])).take 4 := by
  unfold legalRuns; decide

/-- DecodeReadsBoundedInput: a record is read. -/
theorem witness_DecodeReadsBoundedInput :
    (fed recK0).cfg.zeroRun = .reject ∧ exec .decFrame (fed recK0) = .next (after .decFrame (fed recK0)) :=
  ⟨rfl, rfl⟩

/-- The machine after K0, its input then exhausted and a DEC_FRAME failed. -/
def afterFailure : State := after .decFrame { afterK0 with inBytes := [] }

/-- FailureForcesKeyframe, the first two clauses: a failed DEC_FRAME, then any step (here none is pending). -/
theorem witness_FailureForcesKeyframe_failed :
    afterK0.cfg.failPolicy = .invalidate ∧ exec .decFrame { afterK0 with inBytes := [] } = .next afterFailure ∧
    afterFailure.status.produced = false ∧
    (afterFailure.status.decErr ≠ none → afterFailure.cacheValid = false) ∧
    step afterFailure = .next afterFailure ∧ afterFailure.status.decErr ≠ none :=
  ⟨rfl, rfl, rfl, by decide, rfl, by decide⟩

/-- FailureForcesKeyframe, the DEC_FRAME right after the failure, its input replaced by K0. -/
theorem witness_FailureForcesKeyframe_direct :
    let s := { afterFailure with inBytes := recK0, inPos := 0 }
    exec .decFrame s = .next (after .decFrame s) ∧ (after .decFrame s).status.produced = true :=
  ⟨rfl, by decide +kernel⟩

/-- FailureForcesKeyframe, the clauses about steps: between the failure and the next commit the input is replaced
and a NOP runs; then K0 commits. -/
theorem witness_FailureForcesKeyframe_next :
    let s := { afterFailure with hostQueue := [.setInput recK0 0, hostCmd .nop, hostCmd .decFrame] }
    let t := { afterFailure with
      hostQueue := [hostCmd .decFrame], cmd := 0, inBytes := recK0, inPos := 0
      status := { afterFailure.status with ok := true } }
    let u := after .decFrame { t with hostQueue := [], cmd := 0x60 }
    s.cacheValid = false ∧ Host.Core.run Sys2Proof.core 2 s = .next t ∧ t.cacheValid = false ∧
    t.renderEvents = s.renderEvents ∧ step t = .next u ∧ u.cacheValid = true ∧ u.renderEvents ≠ t.renderEvents :=
  ⟨rfl, rfl, rfl, rfl, rfl, by decide +kernel, by decide +kernel⟩

/-- DecodeIgnoresOtherMemory: FB_A written in one of the machines only. -/
theorem witness_DecodeIgnoresOtherMemory :
    exec .decFrame afterK0 = .next (after .decFrame afterK0) ∧
    ∀ i, i < afterK0.cfg.frameBytes → (loaded afterK0 .fbA [1, 2, 3]).mem.get? (Window.cache.base + i)
      = afterK0.byteAt (Window.cache.base + i) := by
  refine ⟨rfl, ?_⟩
  show ∀ i, i < 8 → _
  decide

/-- OnlyDecodeWritesCacheAndRenders: a command each clause speaks of. -/
theorem witness_OnlyDecodeWritesCacheAndRenders :
    goodState.cfg.wf = true ∧ goodState.cacheValid = true ∧ Instr.encClip ≠ .decFrame ∧
    Instr.encClip ≠ .softReset ∧ Instr.encClip ≠ .decRestart := by decide

/-- StepKeepsMachineGood: a machine with a valid cache, a clip, and ENC_CLIP pending. -/
theorem witness_StepKeepsMachineGood :
    goodState.Good ∧ step goodState = .next (after .encClip { goodState with cmd := 0x51, hostQueue := [] }) := by
  have cached : ∀ i, i < 8 → (goodState.byteAt (Window.cache.base + i)).isSome = true := by decide
  refine ⟨⟨by decide, ⟨by decide, by decide +kernel, by decide +kernel, fun _ i hi =>
    Option.isSome_iff_exists.mp (cached i hi)⟩, ⟨by decide, by decide, by decide, by decide, by decide, by decide,
    by decide, by decide⟩, ⟨by decide, by decide, ?_, by decide, ?_, by decide, rfl, ?_⟩⟩, rfl⟩
  · intro k p h; cases h
  · intro k h; cases h
  · intro p h; cases h

/-- ClipRoundTrip: the same clip, an invalid cache, an empty sink. -/
theorem witness_ClipRoundTrip :
    goodColdState.Good ∧ goodColdState.cacheValid = false ∧ goodColdState.outBytes = [] ∧
    clip2 = (List.range goodColdState.clipFrames.toNat).map
      (fun f => (List.range goodColdState.cfg.frameBytes).map
        (fun i => goodColdState.readByte (Window.clipMem.base + f * goodColdState.cfg.frameBytes + i))) := by
  refine ⟨⟨by decide, ⟨by decide, by decide +kernel, by decide +kernel, fun h => by cases h⟩,
    ⟨by decide, by decide, by decide, by decide, by decide, by decide, by decide, by decide⟩,
    ⟨by decide, by decide, ?_, by decide, ?_, by decide, rfl, ?_⟩⟩, rfl, rfl, by decide⟩
  · intro k p h; cases h
  · intro k h; cases h
  · intro p h; cases h

end Sys2Proof.Tests
end

section
/-!
PROOFS. What a command may change, said once for the commands that do not decode: the decoder's own fields
stay (`exec_keepsDecoder`), and memory changes by writes at the start of buffers other than CACHE
(`exec_bufferWrites`). The rules about the whole machine and the invariant follow from these two.
-/

namespace Sys2Proof.Machine

/-! ### Sizes of what the commands write -/

theorem length_runsFrom_le (v : Byte) (c : Nat) (p : List Byte) : (runsFrom v c p).length ≤ p.length + 1 := by
  induction p generalizing v c with
  | nil => simp [runsFrom_nil]
  | cons b p ih =>
    rw [runsFrom]
    split
    · exact Nat.le_succ_of_le (ih v (c + 1))
    · simpa using ih b 1

/-- An encoding takes at most two bytes for each byte of the payload (42_rle.md R182). -/
theorem length_rleEncode_le (p : List Byte) : (rleEncode p).length ≤ 2 * p.length := by
  cases p with
  | nil => simp [rleEncode, runs]
  | cons b p =>
    have := length_runsFrom_le b 1 p
    simp only [rleEncode, runs, length_serialiseRuns, List.length_cons]
    omega

theorem mem_zipWith_seqEntry_lt {ls rs : List Bool} {e : Byte} (h : e ∈ List.zipWith seqEntry ls rs) :
    e.toNat < 4 := by
  rw [← List.map_uncurry_zip_eq_zipWith] at h
  obtain ⟨⟨l, r⟩, -, rfl⟩ := List.mem_map.1 h
  exact seqEntry_lt l r

theorem toNat_ofNat_le (w n : Nat) : (BitVec.ofNat w n).toNat ≤ n := by
  rw [BitVec.toNat_ofNat]
  exact Nat.mod_le _ _

theorem State.length_selectPrev {s : State} {q : List Byte} (h : q ∈ s.selectPrev) :
    q.length = s.cfg.frameBytes := by
  unfold State.selectPrev at h
  split at h
  · obtain rfl := Option.some.inj h
    exact s.length_readFrame .fbB
  · cases h

theorem selectCount_le (cur : List Byte) (prev : Option (List Byte)) : selectCount cur prev ≤ cur.length := by
  cases prev with
  | none => exact Nat.zero_le _
  | some q =>
    have := nonzeroCount_le (xorFrame cur q)
    rw [length_xorFrame] at this
    exact this.trans (Nat.min_le_left _ _)

/-! ### The decoder's fields -/

/-- `t` keeps what belongs to the decoder in `s`: the parameters, the cache's validity, DEC_HDR, WORK, the
phase, the input and the render events; of STATUS only OK, ILLEGAL, KEY, CRC_MATCH and RLE_ERR may differ. -/
structure State.KeepsDecoder (s t : State) : Prop where
  cfg : t.cfg = s.cfg
  decHdr : t.decHdr = s.decHdr
  cacheValid : t.cacheValid = s.cacheValid
  work : t.work = s.work
  phase : t.phase = s.phase
  inBytes : t.inBytes = s.inBytes
  inPos : t.inPos = s.inPos
  renderEvents : t.renderEvents = s.renderEvents
  status : t.status = { s.status with
    ok := t.status.ok, illegal := t.status.illegal, key := t.status.key
    crcMatch := t.status.crcMatch, rleErr := t.status.rleErr }

theorem State.illegalCommand_keepsDecoder (s : State) : s.KeepsDecoder s.illegalCommand := by
  constructor <;> rfl

theorem State.rleDeliver_keepsDecoder (s : State) (r : RleResult) : s.KeepsDecoder (s.rleDeliver r) := by
  cases r <;> constructor <;> rfl

theorem State.memWrite_keepsDecoder (s : State) (a : Word) (n : Width) (v : Word) :
    s.KeepsDecoder (s.memWrite a n v) := by
  rw [s.memWrite_frame]
  constructor <;> rfl

/-- Only DEC_FRAME, DEC_RESTART and SOFT_RESET touch the decoder's fields. -/
theorem exec_keepsDecoder {i : Instr} {s t : State} (hf : i ≠ .decFrame) (hr : i ≠ .decRestart)
    (hs : i ≠ .softReset) (h : exec i s = .next t) : s.KeepsDecoder t := by
  cases i
  case decFrame => exact absurd rfl hf
  case decRestart => exact absurd rfl hr
  case softReset => exact absurd rfl hs
  case rleDec =>
    cases h
    obtain ⟨h1, h2, h3, h4, h5, h6, h7, h8, h9⟩ := State.rleDeliver_keepsDecoder
      { s with runPos := BitVec.ofNat 32 (rleDecode s.cfg.zeroRun s.frameSize s.readRunList).used }
      (rleDecode s.cfg.zeroRun s.frameSize s.readRunList).result
    exact ⟨h1, h2, h3, h4, h5, h6, h7, h8, h9⟩
  all_goals
    cases h
    constructor <;> simp

/-- A command is one of those three, or keeps the decoder's fields. -/
theorem exec_decoder_cases {i : Instr} {s t : State} (h : exec i s = .next t) :
    i = .decFrame ∨ i = .decRestart ∨ i = .softReset ∨ s.KeepsDecoder t := by
  by_contra hn
  simp only [not_or] at hn
  obtain ⟨hf, hr, hs, hk⟩ := hn
  exact hk (exec_keepsDecoder hf hr hs h)

/-- DEC_FRAME leaves the parameters, the sink and the input stream, and moves the input position forward if
at all. -/
theorem execDecFrame_frame {s t : State} (h : execDecFrame s = .next t) :
    t.cfg = s.cfg ∧ t.outBytes = s.outBytes ∧ t.inBytes = s.inBytes ∧ s.inPos ≤ t.inPos := by
  cases h
  rcases s.awaitHeader_cases with ⟨_, _, _, -, -, -, -, -, e⟩ | ⟨_, _, -, -, e⟩ | ⟨_, _, _, -, -, -, -, e⟩ <;>
    simp [e]

/-- No command changes the parameters (00_scope.md R6). -/
theorem exec_cfg {i : Instr} {s t : State} (h : exec i s = .next t) : t.cfg = s.cfg := by
  rcases exec_decoder_cases h with rfl | rfl | rfl | hk
  · exact (execDecFrame_frame h).1
  · cases h
    rfl
  · cases h
    rfl
  · exact hk.cfg

/-- Every command goes on to a next state (60_exceptions.md R320). -/
theorem exec_next (i : Instr) (s : State) : ∃ t, exec i s = .next t := by
  cases i <;> exact ⟨_, rfl⟩

/-! ### The buffers -/

/-- What a command other than DEC_FRAME may write at the start of a window: a frame, a run-list no longer
than RUNBUF, or one two-bit entry for each frame of the clip. -/
def State.MayWrite (s : State) (bs : List Byte) : Window → Prop
  | .fbA | .fbC => bs.length = s.cfg.frameBytes
  | .runbuf => bs.length ≤ 2 * s.cfg.frameBytes
  | .seqMaj | .seqStb => bs.length = s.clipFrames.toNat ∧ ∀ b ∈ bs, b.toNat < 4
  | .fbB | .cache | .frameOut | .clipMem => False

/-- The memories reached from that of `s` by such writes. -/
inductive State.BufferWrites (s : State) : Memory → Prop
  | none : s.BufferWrites s.mem
  | write {m : Memory} {w : Window} {bs : List Byte} :
      s.BufferWrites m → s.MayWrite bs w → s.BufferWrites (m.write w.base bs)

theorem State.BufferWrites.single {s : State} {w : Window} {bs : List Byte} (h : s.MayWrite bs w) :
    s.BufferWrites (s.mem.write w.base bs) := .write .none h

/-- Every command but DEC_FRAME changes memory by such writes alone. -/
theorem exec_bufferWrites {i : Instr} {s t : State} (hf : i ≠ .decFrame) (h : exec i s = .next t) :
    s.BufferWrites t.mem := by
  cases i
  case decFrame => exact absurd rfl hf
  case invert =>
    cases h
    exact .single (w := .fbA) (by simp [State.MayWrite])
  case stabilize =>
    cases h
    exact .single (w := .seqStb) ⟨by simp, fun b hb => mem_zipWith_seqEntry_lt hb⟩
  case select =>
    cases h
    refine .single (w := .fbC) ?_
    have := length_payload s.cfg (s.readFrame .fbA) s.selectPrev
      (fun q hq => by rw [State.length_selectPrev hq, s.length_readFrame])
    simpa [State.MayWrite] using this
  case xorApply =>
    cases h
    exact .single (w := .fbC) (by simp [State.MayWrite])
  case rleEnc =>
    cases h
    refine .single (w := .runbuf) ?_
    simpa [State.MayWrite] using length_rleEncode_le (s.readFrame .fbC)
  case rleDec =>
    cases h
    rcases hr : (rleDecode s.cfg.zeroRun s.frameSize s.readRunList).result with out | k
    · exact .single (w := .fbC) (rleDecode_length hr)
    · exact .none
  case encClip =>
    cases h
    refine .write (w := .seqStb) (.single (w := .seqMaj) ⟨?_, fun b hb => mem_zipWith_seqEntry_lt hb⟩)
      ⟨?_, fun b hb => mem_zipWith_seqEntry_lt hb⟩ <;> simp [encodeClip]
  all_goals
    cases h
    exact .none

/-- None of these writes reaches CACHE: each stands in a window below it, inside its used size, or begins
above it. -/
theorem State.BufferWrites.get?_cache {s : State} {m : Memory} (h : s.BufferWrites m) (hp : s.cfg.wf = true)
    {k : Nat} (hk : k < s.cfg.frameBytes) :
    m.get? (Window.cache.base + k) = s.byteAt (Window.cache.base + k) := by
  have hN := Params.frameBytes_le hp
  induction h with
  | none => rfl
  | @write m w bs _ hw ih =>
    rw [Memory.get?_write_of_not_mem, ih]
    cases w <;> simp only [State.MayWrite] at hw <;> simp only [Window.base] <;> omega

end Sys2Proof.Machine

end

section
/-!
PROOFS. The invariant `State.Good`: each of its parts is kept by each operation, then by every command,
host write and event.
-/

namespace Sys2Proof.Machine

/-! ### Memory -/

/-- Good memory depends on the parameters, the memory and the cache's validity alone, and losing the cache
keeps it. -/
theorem State.MemoryGood.congr {s t : State} (h : s.MemoryGood) (hc : t.cfg = s.cfg) (hm : t.mem = s.mem)
    (hv : t.cacheValid = true → s.cacheValid = true) : t.MemoryGood := by
  obtain ⟨h1, h2, h3, h4⟩ := h
  refine ⟨by rw [hm]; exact h1, by rw [hm, hc]; exact h2, by rw [hm, hc]; exact h3, ?_⟩
  intro hv' i hi
  rw [State.byteAt_congr hm]
  exact h4 (hv hv') i (hc ▸ hi)

theorem State.memoryGood_of_mem_nil {s : State} (hm : s.mem = []) (hv : s.cacheValid = false) :
    s.MemoryGood := by
  constructor <;> simp [hm, hv]

/-- A write inside the used size of a window that stores, of two-bit entries in a sequence, keeps memory
good. -/
theorem State.MemoryGood.writeBytes {s : State} (h : s.MemoryGood) (hp : s.cfg.wf = true) {w : Window}
    {base : Nat} {bs : List Byte} (hw : w ∈ storedWindows) (hlo : w.base ≤ base)
    (hhi : base + bs.length ≤ w.base + w.size s.cfg)
    (hseq : w ∈ [Window.seqMaj, Window.seqStb] → ∀ b ∈ bs, b.toNat < 4) :
    (s.writeBytes base bs).MemoryGood := by
  obtain ⟨hcanon, hmapped, hentries, hcache⟩ := h
  have hin {c : Host.Cell} (h1 : base ≤ c.1) (h2 : c.1 < base + bs.length) : w.holds s.cfg c.1 1 = true :=
    (Window.holds_iff ..).2 ⟨by omega, by omega⟩
  refine ⟨Memory.wf_write hcanon base bs, ?_, ?_, ?_⟩
  · intro c hc
    rcases Memory.mem_write hc with ⟨hold, -⟩ | ⟨h1, h2, -⟩
    · exact hmapped c hold
    · exact ⟨w, hw, hin h1 h2⟩
  · intro c hc v hv hh
    rcases Memory.mem_write hc with ⟨hold, -⟩ | ⟨h1, h2, hb⟩
    · exact hentries c hold v hv hh
    · obtain rfl := Window.holds_unique hp le_rfl le_rfl hh (hin h1 h2)
      exact hseq hv _ hb
  · intro hv i hi
    rw [State.byteAt_writeBytes]
    split
    · rename_i hr
      exact ⟨_, List.getElem?_eq_getElem (by omega)⟩
    · exact hcache hv i hi

/-- What a command may write fits its window, in a state whose clip fits the clip memory. -/
theorem State.MayWrite.fits {s : State} {bs : List Byte} {w : Window} (h : s.MayWrite bs w)
    (hF : s.clipFrames.toNat ≤ s.cfg.maxFrames) :
    w ∈ storedWindows ∧ bs.length ≤ w.size s.cfg ∧
      (w ∈ [Window.seqMaj, Window.seqStb] → ∀ b ∈ bs, b.toNat < 4) := by
  cases w
  case fbA | fbC => exact ⟨by decide, le_of_eq h, fun hw => absurd hw (by decide)⟩
  case runbuf => exact ⟨by decide, h, fun hw => absurd hw (by decide)⟩
  case seqMaj | seqStb => exact ⟨by decide, h.1 ▸ hF, fun _ => h.2⟩
  all_goals exact h.elim

/-- The writes of the commands other than DEC_FRAME keep memory good. -/
theorem State.BufferWrites.memoryGood {s : State} {m : Memory} (h : s.BufferWrites m) (hs : s.MemoryGood)
    (hp : s.cfg.wf = true) (hF : s.clipFrames.toNat ≤ s.cfg.maxFrames) :
    State.MemoryGood { s with mem := m } := by
  induction h with
  | none => exact hs
  | @write m w bs _ hw ih =>
    obtain ⟨h1, h2, h3⟩ := hw.fits hF
    exact ih.writeBytes (bs := bs) hp h1 le_rfl (Nat.add_le_add_left h2 _) h3

/-! ### Status -/

/-- Where the decoder's fields stay, STATUS stays good if RLE_ERR is one an RLE_DEC may report and OK
excludes ILLEGAL. -/
theorem State.StatusGood.of_keepsDecoder {s t : State} (h : s.StatusGood) (k : s.KeepsDecoder t)
    (hrle : ∀ e, t.status.rleErr = some e → legalRleFailure e = true)
    (hok : t.status.ok = true → t.status.illegal = false) : t.StatusGood := by
  obtain ⟨h1, h2, h3, h4, -, -, h7, h8⟩ := h
  have hst := k.status
  refine ⟨?_, ?_, ?_, ?_, hrle, hok, k.work.trans h7, k.phase ▸ h8⟩ <;> rw [hst]
  · rw [k.cacheValid]; exact h1
  · exact h2
  · exact h3
  · exact h4

theorem State.statusGood_of_decodeFail (s : State) {k : FailKind} {p : WorkPhase} (n : Nat)
    (hs : ∀ e, s.status.rleErr = some e → legalRleFailure e = true) (hl : legalDecodeFailure k p = true) :
    (s.decodeFail k p n).StatusGood := by
  refine ⟨?_, by simp, ?_, by simp, hs, by simp, rfl, by simp⟩
  · intro h; cases h
  · rintro k' p' ⟨⟩ ⟨⟩
    exact hl

theorem State.statusGood_of_decodeCommit (s : State) (h : Byte) (n : Nat)
    (hs : ∀ e, s.status.rleErr = some e → legalRleFailure e = true) : (s.decodeCommit h n).StatusGood := by
  refine ⟨fun _ => ⟨rfl, rfl⟩, by simp, ?_, by simp, hs, fun _ => rfl, rfl, by simp⟩
  rintro k p ⟨⟩

theorem State.statusGood_of_cleared {s : State} {ok : Bool} (hst : s.status = { Status.cleared with ok := ok })
    (hw : s.work = []) (hp : s.phase = .idle) : s.StatusGood := by
  constructor <;> simp [hst, Status.cleared, hw, hp]

/-- A failure kind an RLE_DEC reports is legal (60_exceptions.md R321). -/
theorem rleDecode_err_legal {zr : ZeroRun} {need : Nat} {source : List Byte} {k : FailKind}
    (h : (rleDecode zr need source).result = .err k) : legalRleFailure k = true := by
  rcases rleDecode_err_kind h with rfl | rfl | rfl <;> rfl

end Sys2Proof.Machine

end

section
/-!
PROOFS. The invariant `State.Good` is kept by each command, by a host write and by every event served.
-/

namespace Sys2Proof.Machine

/-! ### DEC_FRAME -/

theorem State.MemoryGood.decodeCommit {s : State} (hs : s.MemoryGood) (hp : s.cfg.wf = true) (h : Byte) (n : Nat)
    (hw : s.work.length = s.cfg.frameBytes) : (s.decodeCommit h n).MemoryGood := by
  obtain ⟨hcanon, hmapped, hentries, -⟩ := hs.writeBytes (w := .cache) (bs := s.work) hp (by decide) le_rfl
    (Nat.add_le_add_left (le_of_eq hw) _) (fun hseq => absurd hseq (by decide))
  exact ⟨hcanon, hmapped, hentries, fun _ i hi => ⟨_, Memory.get?_write_add (hw.symm ▸ hi)⟩⟩

/-- Bytes consumed from what is left of the input leave the position inside the stream (10_state.md R55). -/
theorem State.RegistersGood.advanceInput {s : State} (hr : s.RegistersGood) {u : Nat}
    (hu : u ≤ s.unread.length) : (s.advanceInput u).RegistersGood := by
  have hin := hr.inputInside
  rw [State.length_unread] at hu
  refine { hr with inputInside := ?_ }
  simp only [State.advanceInput_inPos, State.advanceInput_inBytes]
  omega

theorem State.RegistersGood.decodeCommit {s : State} (hr : s.RegistersGood) (h : Byte) (n : Nat) :
    (s.decodeCommit h n).RegistersGood := by
  obtain ⟨hwin, hclip, hlen, hpos, hcount, hwl, hwr, hin⟩ := hr
  constructor <;> simpa

theorem State.Good.decodeFail {s : State} (hs : s.Good) {k : FailKind} {p : WorkPhase} (n : Nat)
    (hl : legalDecodeFailure k p = true) : (s.decodeFail k p n).Good := by
  obtain ⟨hp, hm, hr, hst⟩ := hs
  refine ⟨hp, hm.congr rfl rfl fun hv => ?_, { hr with }, s.statusGood_of_decodeFail n hst.rleLegal hl⟩
  have hkept : ¬ s.cfg.failPolicy = .invalidate ∧ s.cacheValid = true := by simpa using hv
  exact hkept.2

theorem State.Good.nextDraw {s : State} (hs : s.Good) : s.nextDraw.Good :=
  ⟨hs.parameters, hs.memory.congr rfl rfl id, { hs.registers with }, { hs.status with }⟩

/-- Input consumed and a checksum recorded. -/
theorem State.Good.consume {s : State} (hs : s.Good) {u : Nat} (hu : u ≤ s.unread.length) (c : Half) :
    ((s.advanceInput u).setCrc c).Good :=
  ⟨hs.parameters, hs.memory.congr rfl rfl id, { hs.registers.advanceInput hu with }, { hs.status with }⟩

/-- A commit of a whole frame, WORK holding it. -/
theorem State.Good.decodeCommit {s : State} (hs : s.Good) {w : List Byte} (hw : w.length = s.cfg.frameBytes)
    (h : Byte) (n : Nat) : ((s.setWork w).decodeCommit h n).Good := by
  obtain ⟨hp, hm, hr, hst⟩ := hs
  have hm' : (s.setWork w).MemoryGood := hm.congr rfl rfl id
  have hr' : (s.setWork w).RegistersGood := { hr with }
  exact ⟨hp, hm'.decodeCommit hp h n hw, hr'.decodeCommit h n,
    State.statusGood_of_decodeCommit _ h n hst.rleLegal⟩

/-- Every DEC_FRAME keeps the machine good. -/
theorem execDecFrame_good {s t : State} (hs : s.Good) (h : execDecFrame s = .next t) : t.Good := by
  cases h
  rcases s.awaitHeader_cases with ⟨u, k, p, hu, hl, -, -, -, e⟩ | ⟨u, w, hu, -, e⟩ | ⟨u, h, w, hu, hw, -, -, e⟩ <;>
    rw [e] <;> apply State.Good.nextDraw
  · exact (hs.consume hu s.crcResult).decodeFail _ hl
  · exact (hs.consume hu (crc16 w)).decodeFail _ rfl
  · exact (hs.consume hu (crc16 w)).decodeCommit hw h _

/-! ### The other commands -/

/-- A command other than DEC_FRAME leaves ILLEGAL 0 and a failure in RLE_ERR that an RLE_DEC may report. -/
theorem exec_flags {i : Instr} {s t : State} (hf : i ≠ .decFrame) (h : exec i s = .next t)
    (hs : ∀ e, s.status.rleErr = some e → legalRleFailure e = true) :
    t.status.illegal = false ∧ ∀ e, t.status.rleErr = some e → legalRleFailure e = true := by
  cases i
  case decFrame => exact absurd rfl hf
  case rleDec =>
    cases h
    rcases hr : (rleDecode s.cfg.zeroRun s.frameSize s.readRunList).result with out | k
    · exact ⟨rfl, fun e he => nomatch he⟩
    · refine ⟨rfl, fun e he => ?_⟩
      obtain rfl := Option.some.inj he
      exact rleDecode_err_legal hr
  case softReset =>
    cases h
    exact ⟨rfl, fun e he => nomatch he⟩
  all_goals
    cases h
    exact ⟨rfl, hs⟩

theorem State.RegistersGood.nextDraw {s : State} (hs : s.RegistersGood) : s.nextDraw.RegistersGood := { hs with }

theorem State.RegistersGood.rleDeliver {s : State} (hs : s.RegistersGood) (r : RleResult) :
    (s.rleDeliver r).RegistersGood := by
  cases r <;> exact { hs with }

/-- A command other than DEC_FRAME leaves every register in its range. -/
theorem exec_registersGood {i : Instr} {s t : State} (hf : i ≠ .decFrame) (h : exec i s = .next t)
    (hs : s.RegistersGood) : t.RegistersGood := by
  cases i
  case decFrame => exact absurd rfl hf
  case softReset =>
    cases h
    refine { hs with
      windowPositive := ?_, clipFits := ?_, runLenFits := ?_, runPosFits := ?_
      countFits := ?_, whiteLFits := ?_, whiteRFits := ?_ } <;> simp [Config.windowReset]
  case classify =>
    cases h
    refine { hs with whiteLFits := (toNat_ofNat_le _ _).trans ?_, whiteRFits := (toNat_ofNat_le _ _).trans ?_ }
    · exact columnWhite_le s.cfg (s.readFrame .fbA) 0
    · exact columnWhite_le s.cfg (s.readFrame .fbA) (s.cfg.width - 1)
  case select =>
    cases h
    refine { hs with countFits := (toNat_ofNat_le _ _).trans ?_ }
    simpa using selectCount_le (s.readFrame .fbA) s.selectPrev
  case rleEnc =>
    cases h
    refine { hs with runLenFits := (toNat_ofNat_le _ _).trans ?_ }
    simpa using length_rleEncode_le (s.readFrame .fbC)
  case rleDec =>
    cases h
    have hused := rleDecode_used_le s.cfg.zeroRun s.frameSize s.readRunList
    rw [State.length_readRunList] at hused
    have hread : State.RegistersGood
        { s with runPos := BitVec.ofNat 32 (rleDecode s.cfg.zeroRun s.frameSize s.readRunList).used } :=
      { hs with runPosFits := (toNat_ofNat_le _ _).trans (hused.trans hs.runLenFits) }
    exact (hread.rleDeliver _).nextDraw
  case decRestart =>
    cases h
    exact { hs with inputInside := Nat.zero_le _ }
  all_goals
    cases h
    obtain ⟨hwin, hclip, hlen, hpos, hcount, hwl, hwr, hin⟩ := hs
    constructor <;> simpa

/-- A command other than DEC_FRAME keeps STATUS and the decoder's phase good. -/
theorem exec_statusGood {i : Instr} {s t : State} (hf : i ≠ .decFrame) (h : exec i s = .next t)
    (hs : s.StatusGood) : t.StatusGood := by
  obtain ⟨hill, hrle⟩ := exec_flags hf h hs.rleLegal
  rcases exec_decoder_cases h with rfl | rfl | rfl | hk
  · exact absurd rfl hf
  · cases h
    exact { hs with
      producedValid := by simp
      errWithPhase := by simp
      errLegal := by simp
      boundary := by simp
      okLegal := by simp }
  · cases h
    exact State.statusGood_of_cleared rfl hs.noWork rfl
  · exact hs.of_keepsDecoder hk hrle fun _ => hill

/-- Every command keeps the machine good. -/
theorem exec_good {i : Instr} {s t : State} (hs : s.Good) (h : exec i s = .next t) : t.Good := by
  by_cases hf : i = .decFrame
  · subst hf
    exact execDecFrame_good hs h
  · obtain ⟨hp, hm, hr, hst⟩ := hs
    have hc := exec_cfg h
    have hm' := (exec_bufferWrites hf h).memoryGood hm hp hr.clipFits
    exact ⟨hc ▸ hp, hm'.congr hc rfl (exec_noCommit hf h).cacheValid, exec_registersGood hf h hr,
      exec_statusGood hf h hst⟩

/-! ### Host accesses and events -/

/-- A register the host writes holds a value in its range (10_state.md R35, R38, R43). -/
theorem State.RegistersGood.writeReg {s : State} (hs : s.RegistersGood) (r : Reg) (v : Word) :
    (s.writeReg r v).RegistersGood := by
  cases r
  case cfgWindow =>
    refine { hs with windowPositive := ?_ }
    simp only [State.writeReg]
    split
    · decide
    · rename_i h
      exact Nat.pos_of_ne_zero fun h0 => h (BitVec.eq_of_toNat_eq h0)
  case clipFrames => exact { hs with clipFits := (toNat_ofNat_le _ _).trans (Nat.min_le_right _ _) }
  case runLen => exact { hs with runLenFits := (toNat_ofNat_le _ _).trans (Nat.min_le_right _ _) }
  all_goals exact { hs with }

theorem storedByte_lt {w : Window} (hw : w ∈ [Window.seqMaj, Window.seqStb]) (b : Byte) :
    (State.storedByte w b).toNat < 4 := by
  cases w
  case seqMaj | seqStb => exact seqMask_lt b
  all_goals exact absurd hw (by decide)

theorem Window.mem_storedWindows_of_hostWritable {w : Window} (h : w.hostWritable = true) :
    w ∈ storedWindows := by
  cases w
  case cache | frameOut => cases h
  all_goals decide

/-- A host write reaches a register, stores bytes inside a writable window, or does nothing
(20_memory.md R71, R72). -/
theorem State.memWrite_cases (s : State) (a : Word) (n : Width) (v : Word) :
    (∃ r, regAccess? a.toNat n = some r ∧ s.memWrite a n v = s.writeReg r v) ∨
    (regAccess? a.toNat n = none ∧ ∃ w, windowAccess? s.cfg a.toNat n = some w ∧ w.hostWritable = true ∧
      s.memWrite a n v = s.writeBytes a.toNat ((leBytes n.bytes v.toNat).map (State.storedByte w))) ∨
    (regAccess? a.toNat n = none ∧ s.memWrite a n v = s) := by
  unfold State.memWrite
  cases hr : regAccess? a.toNat n with
  | some r => exact .inl ⟨r, rfl, rfl⟩
  | none =>
    cases hw : windowAccess? s.cfg a.toNat n with
    | none => exact .inr (.inr ⟨rfl, rfl⟩)
    | some w =>
      cases hh : w.hostWritable with
      | true => exact .inr (.inl ⟨rfl, w, rfl, hh, by simp [hh]⟩)
      | false => exact .inr (.inr ⟨rfl, by simp [hh]⟩)

/-- A host write, for CMD the store alone, keeps the machine good. -/
theorem State.Good.memWrite {s : State} (hs : s.Good) (a : Word) (n : Width) (v : Word) :
    (s.memWrite a n v).Good := by
  obtain ⟨hp, hm, hr, hst⟩ := hs
  have hk := s.memWrite_keepsDecoder a n v
  rcases s.memWrite_cases a n v with ⟨r, -, e⟩ | ⟨-, w, hw, hh, e⟩ | ⟨-, e⟩
  · rw [e] at hk ⊢
    have hmem : (s.writeReg r v).mem = s.mem := by rw [s.writeReg_frame]
    have hstat : (s.writeReg r v).status = s.status := by rw [s.writeReg_frame]
    refine ⟨hk.cfg ▸ hp, hm.congr hk.cfg hmem (hk.cacheValid ▸ id), hr.writeReg r v, hst.of_keepsDecoder hk ?_ ?_⟩ <;>
      rw [hstat]
    · exact hst.rleLegal
    · exact hst.okLegal
  · obtain ⟨-, hin⟩ := windowAccess?_some hw
    obtain ⟨hlo, hhi⟩ := (Window.holds_iff ..).1 hin
    rw [e]
    refine ⟨hp, hm.writeBytes hp (Window.mem_storedWindows_of_hostWritable hh) hlo (by simpa using hhi) ?_,
      { hr with }, { hst with }⟩
    intro hseq b hb
    obtain ⟨b', -, rfl⟩ := List.mem_map.1 hb
    exact storedByte_lt hseq b'
  · rw [e]
    exact ⟨hp, hm, hr, hst⟩

theorem State.Good.illegalCommand {s : State} (hs : s.Good) : s.illegalCommand.Good :=
  ⟨hs.parameters, hs.memory.congr rfl rfl id, { hs.registers with },
    hs.status.of_keepsDecoder s.illegalCommand_keepsDecoder hs.status.rleLegal (fun h => nomatch h)⟩

theorem State.Good.hostCommand {s t : State} (hs : s.Good) {w : Word} (h : s.hostCommand w = .next t) :
    t.Good := by
  unfold State.hostCommand at h
  split at h
  · exact exec_good hs h
  · cases h
    exact hs.illegalCommand

/-- A machine whose registers are reset, with no byte of memory and WORK defined and the input position
inside the stream, is good. -/
theorem State.Good.of_powerOn {s : State} (hp : s.cfg.wf = true) (hin : s.inPos ≤ s.inBytes.length) :
    s.powerOn.Good :=
  ⟨hp, State.memoryGood_of_mem_nil rfl rfl,
    ⟨by simp [State.powerOn, Config.windowReset], Nat.zero_le _, Nat.zero_le _, Nat.zero_le _, Nat.zero_le _,
      Nat.zero_le _, Nat.zero_le _, hin⟩,
    State.statusGood_of_cleared rfl rfl rfl⟩

/-- Every event of the total order (20_memory.md R77) keeps the machine good. -/
theorem State.Good.serve {s t : State} (hs : s.Good) {op : HostOp} (h : s.serve op = .next t) : t.Good := by
  obtain ⟨hp, hm, hr, hst⟩ := hs
  cases op with
  | read a n =>
    cases h
    exact ⟨hp, hm.congr rfl rfl id, { hr with }, { hst with }⟩
  | write a n v =>
    have hw := State.Good.memWrite ⟨hp, hm, hr, hst⟩ a n v
    rw [State.serve] at h
    split at h
    · exact hw.hostCommand h
    · cases h
      exact hw
  | setInput bytes pos =>
    cases h
    exact ⟨hp, hm.congr rfl rfl id, { hr with inputInside := Nat.min_le_right _ _ }, { hst with }⟩
  | setSink bytes =>
    cases h
    exact ⟨hp, hm.congr rfl rfl id, { hr with }, { hst with }⟩
  | powerOn =>
    cases h
    exact .of_powerOn hp hr.inputInside

/-- Settles O54: a step serves one event, and every event keeps the machine good. -/
theorem stepKeepsMachineGood : Obligations.StepKeepsMachineGood := by
  intro s t hs h
  unfold step at h
  split at h
  · cases h
    exact hs
  · rename_i op rest _
    obtain ⟨hp, hm, hr, hst⟩ := hs
    have hs' : State.Good { s with hostQueue := rest } :=
      ⟨hp, hm.congr rfl rfl id, { hr with }, { hst with }⟩
    exact hs'.serve h

/-- Settles O53: the machine after power-on is one that a power-on event leaves. -/
theorem powerOnIsGood : Obligations.PowerOnIsGood := by
  have good (p : Params) (hp : p.wf = true) : (State.afterPowerOn p).Good :=
    State.Good.of_powerOn (s := State.afterPowerOn p) hp le_rfl
  exact ⟨good, good _ Config.params_wf⟩

end Sys2Proof.Machine

end

section
/-!
PROOFS. The whole-machine rules: which command writes CACHE, renders, and uses the ports.
-/

namespace Sys2Proof.Machine

/-- Settles O51: every other command ends without a commit, writes only buffers outside CACHE, and keeps the
decoder's fields unless it is a reset or a restart. -/
theorem onlyDecodeWritesCacheAndRenders : Obligations.OnlyDecodeWritesCacheAndRenders := by
  intro i s hp hf
  obtain ⟨t, h⟩ := exec_next i s
  have hno := exec_noCommit hf h
  refine ⟨t, h, fun k hk => (exec_bufferWrites hf h).get?_cache hp hk, hno.renderEvents, hno.cacheValid, ?_⟩
  rcases exec_decoder_cases h with rfl | rfl | rfl | hk
  · exact absurd rfl hf
  · cases h
    exact ⟨fun _ => rfl, fun _ hr => absurd rfl hr⟩
  · exact ⟨fun hs => absurd rfl hs, fun hs => absurd rfl hs⟩
  · exact ⟨fun _ => hk.decHdr, fun _ _ => hk.cacheValid⟩

/-- What each command appends to the sink: a record, a clip's stream, or nothing (10_state.md R56). -/
theorem exec_outBytes {i : Instr} {s t : State} (h : exec i s = .next t) :
    ∃ more, t.outBytes = s.outBytes ++ more ∧ (more ≠ [] → i = .frameEmit ∨ i = .encClip) := by
  have unchanged {t : State} (ht : t.outBytes = s.outBytes) :
      ∃ more, t.outBytes = s.outBytes ++ more ∧ (more ≠ [] → i = .frameEmit ∨ i = .encClip) :=
    ⟨[], by simpa using ht, fun hm => absurd rfl hm⟩
  cases i
  case frameEmit =>
    cases h
    exact ⟨_, rfl, fun _ => .inl rfl⟩
  case encClip =>
    cases h
    exact ⟨_, rfl, fun _ => .inr rfl⟩
  case decFrame =>
    obtain ⟨-, hout, -, -⟩ := execDecFrame_frame h
    exact unchanged hout
  case rleDec =>
    cases h
    refine unchanged ?_
    rcases (rleDecode s.cfg.zeroRun s.frameSize s.readRunList).result with out | k <;> rfl
  all_goals
    cases h
    exact unchanged rfl

/-- Settles O52: the commands that keep the decoder's fields keep the input; DEC_FRAME, DEC_RESTART and
SOFT_RESET one by one. -/
theorem onlyTheirCommandsUsePorts : Obligations.OnlyTheirCommandsUsePorts := by
  intro i s
  obtain ⟨t, h⟩ := exec_next i s
  refine ⟨t, h, exec_outBytes h, ?_⟩
  rcases exec_decoder_cases h with rfl | rfl | rfl | hk
  · obtain ⟨-, -, hbytes, hpos⟩ := execDecFrame_frame h
    exact ⟨hbytes, fun hf => absurd rfl hf, fun _ => hpos, nofun⟩
  · cases h
    exact ⟨rfl, fun _ hr => absurd rfl hr, nofun, fun _ => rfl⟩
  · cases h
    exact ⟨rfl, fun _ _ => rfl, nofun, nofun⟩
  · refine ⟨hk.inBytes, fun _ _ => hk.inPos, fun _ => hk.inPos.ge, ?_⟩
    rintro rfl
    cases h
    rfl

/-! ### DEC_FRAME and the memory outside CACHE -/

/-- The same machine with another memory. -/
def State.withMem (s : State) (m : Memory) : State := { s with mem := m }

/-- Two memories that hold the same bytes in CACHE are read as the same frame. -/
theorem State.readFrame_cache_withMem {s : State} {m : Memory}
    (hm : ∀ i, i < s.cfg.frameBytes → m.get? (Window.cache.base + i) = s.byteAt (Window.cache.base + i)) :
    (s.withMem m).readFrame .cache = s.readFrame .cache := by
  refine List.map_congr_left fun i hi => ?_
  have hi' := hm i (List.mem_range.1 hi)
  change (Memory.get? m _).getD _ = _
  rw [hi']
  rfl

/-- `u` is `t` but for its memory, and both decodes, from `s` and from `s` with the memory `m`, left their
memory alone or wrote the same frame into CACHE. -/
def State.DecodeAlike (s : State) (m : Memory) (t u : State) : Prop :=
  (t.mem = s.mem ∧ u = t.withMem m) ∨
  ∃ w : List Byte, w.length = s.cfg.frameBytes ∧ t.mem = s.mem.write Window.cache.base w ∧
    u = t.withMem (m.write Window.cache.base w)

theorem State.verifyChecksum_decodeAlike (s : State) (m : Memory) (h : Byte) (c : Half) (n : Nat)
    (hw : s.work.length = s.cfg.frameBytes) :
    s.DecodeAlike m (s.verifyChecksum h c n) ((s.withMem m).verifyChecksum h c n) := by
  by_cases hc : crc16 s.work = c
  · rw [verifyChecksum_same hc, verifyChecksum_same (s := s.withMem m) hc]
    exact .inr ⟨s.work, hw, rfl, rfl⟩
  · rw [verifyChecksum_differ hc, verifyChecksum_differ (s := s.withMem m) hc]
    exact .inl ⟨rfl, rfl⟩

theorem State.applyDelta_decodeAlike (s : State) (m : Memory) (h : Byte) (c : Half) (n : Nat)
    (hm : ∀ i, i < s.cfg.frameBytes → m.get? (Window.cache.base + i) = s.byteAt (Window.cache.base + i))
    (hw : s.work.length = s.cfg.frameBytes) :
    s.DecodeAlike m (s.applyDelta h c n) ((s.withMem m).applyDelta h c n) := by
  cases hk : isKeyHeader h with
  | true =>
    rw [applyDelta_key hk, applyDelta_key hk]
    exact s.verifyChecksum_decodeAlike m h c n hw
  | false =>
    cases hv : s.cacheValid with
    | false =>
      rw [applyDelta_noHistory hk hv, applyDelta_noHistory (s := s.withMem m) hk hv]
      exact .inl ⟨rfl, rfl⟩
    | true =>
      rw [applyDelta_delta hk hv, applyDelta_delta (s := s.withMem m) hk hv, State.readFrame_cache_withMem hm]
      exact (s.setWork _).verifyChecksum_decodeAlike m h c n (by simp [hw])

/-- A DEC_FRAME depends on memory through CACHE alone. -/
theorem State.awaitHeader_decodeAlike (s : State) (m : Memory)
    (hm : ∀ i, i < s.cfg.frameBytes → m.get? (Window.cache.base + i) = s.byteAt (Window.cache.base + i)) :
    s.DecodeAlike m s.awaitHeader (s.withMem m).awaitHeader := by
  rcases hu : s.unread with _ | ⟨h, source⟩
  · rw [awaitHeader_empty hu, awaitHeader_empty (s := s.withMem m) hu]
    exact .inl ⟨rfl, rfl⟩
  · rcases hr : rleDecode s.cfg.zeroRun s.cfg.frameBytes source with ⟨out | k, u⟩
    · rcases ht : source.drop u with _ | ⟨t0, _ | ⟨t1, rest⟩⟩
      case cons.cons =>
        rw [awaitHeader_record hu hr ht, awaitHeader_record (s := s.withMem m) hu hr ht]
        have hout : out.length = s.cfg.frameBytes := rleDecode_length (congrArg RleRead.result hr)
        exact ((s.advanceInput (u + 3)).setWork out).applyDelta_decodeAlike m h _ _ hm hout
      all_goals
        rw [awaitHeader_trailerCut hu hr ht (by simp), awaitHeader_trailerCut (s := s.withMem m) hu hr ht (by simp)]
        exact .inl ⟨rfl, rfl⟩
    · rw [awaitHeader_runsFail hu hr, awaitHeader_runsFail (s := s.withMem m) hu hr]
      exact .inl ⟨rfl, rfl⟩

/-- Settles O50: the two decodes end alike, and both leave their memory alone or both write one and the same
frame into CACHE. -/
theorem decodeIgnoresOtherMemory : Obligations.DecodeIgnoresOtherMemory := by
  intro s t m h hm
  cases h
  refine ⟨(s.withMem m).awaitHeader.nextDraw, rfl, ?_⟩
  rcases s.awaitHeader_decodeAlike m hm with ⟨ht, hu⟩ | ⟨w, hw, ht, hu⟩ <;> rw [hu]
  · refine ⟨rfl, fun i hi => ?_, fun a _ => rfl⟩
    exact (hm i hi).trans (State.byteAt_congr ht _).symm
  · refine ⟨rfl, fun i hi => ?_, fun a ha => Memory.get?_write_of_not_mem (hw.symm ▸ ha)⟩
    have hi' : i < w.length := hw.symm ▸ hi
    calc (m.write Window.cache.base w).get? (Window.cache.base + i)
        = some w[i] := Memory.get?_write_add hi'
      _ = (s.mem.write Window.cache.base w).get? (Window.cache.base + i) := (Memory.get?_write_add hi').symm
      _ = s.awaitHeader.mem.get? (Window.cache.base + i) := by rw [ht]

end Sys2Proof.Machine

end

section
/-!
PROOFS. The host bus and the register window: what a step that serves a host write does, what an access
reaches, and what the registers read.
-/

namespace Sys2Proof.Machine

/-! ### One step serves one write -/

/-- A step that serves a write of a legal word to CMD stores it and runs the command (10_state.md R33). -/
theorem step_commandWrite {s : State} {rest : List HostOp} {w : Word} {i : Instr}
    (hq : s.hostQueue = .write 0 .four w :: rest) (hd : decode w = .legal i) :
    step s = exec i { s with hostQueue := rest, cmd := w } := by
  have hreg : regAccess? (0 : Word).toNat .four = some .cmd := regAccess?_offset .cmd
  simp only [step, hq, State.serve, State.memWrite, hreg, State.writeReg, State.hostCommand, hd, if_true]

/-- A step that serves a write which does not reach CMD does nothing but the write. -/
theorem step_write {s : State} {a : Word} {n : Width} {v : Word} (h : regAccess? a.toNat n ≠ some .cmd) :
    step { s with hostQueue := .write a n v :: s.hostQueue } = .next (s.memWrite a n v) := by
  simp only [step, State.serve, if_neg h]

theorem step_hostWr {r : Reg} (hr : r ≠ .cmd) (s : State) (v : Word) :
    step { s with hostQueue := hostWr r v :: s.hostQueue } = .next (s.writeReg r v) := by
  have hreg : regAccess? (BitVec.ofNat 32 r.offset).toNat .four = some r := by
    rw [r.toNat_offset, regAccess?_offset]
  rw [hostWr, step_write (by rw [hreg]; simpa using hr), State.memWrite, hreg]

/-- The host reads a register at its offset. -/
theorem State.memRead_offset (s : State) (r : Reg) :
    s.memRead (BitVec.ofNat 32 r.offset) .four = s.readReg r := by
  rw [State.memRead, r.toNat_offset, regAccess?_offset]

theorem decode_encode (i : Instr) : decode (encode i) = .legal i := by
  cases i <;> decide

/-- Settles O3 by the rule of a CMD write. -/
theorem stepExecutesCommandWrite : Obligations.StepExecutesCommandWrite := by
  intro s rest w i hq hd
  exact step_commandWrite hq hd

/-- Settles O4: the word put in front of the pending events is decoded as the command it encodes. -/
theorem fetchWordStepsCommand : Obligations.FetchWordStepsCommand := by
  intro s i
  have hw : BitVec.ofNat 32 ((encode i).toNat % 2 ^ 32) = encode i := by
    rw [Nat.mod_eq_of_lt (encode i).isLt, BitVec.ofNat_toNat, BitVec.setWidth_eq]
  refine ⟨?_, ?_⟩
  · have hq : (s.withFetchWord 32 (encode i).toNat).hostQueue = .write 0 .four (encode i) :: s.hostQueue := by
      rw [State.withFetchWord, hw]
    exact step_commandWrite hq (decode_encode i)
  · rw [decodeTableWord, hw, decode_encode]
    rfl

/-! ### Accesses that reach nothing -/

/-- No register at a reserved offset, for another width, or misaligned (10_state.md R51, 20_memory.md R72). -/
theorem regAccess?_eq_none {a : Nat} {n : Width} (h : n ≠ .four ∨ a % 4 ≠ 0 ∨ 0x48 ≤ a) :
    regAccess? a n = none := by
  rw [Option.eq_none_iff_forall_ne_some]
  intro r hr
  obtain ⟨-, hn, ha⟩ := regAccess?_some hr
  have hlt := r.offset_lt
  have hal := r.offset_aligned
  rcases h with h | h | h
  · exact h hn
  · omega
  · omega

/-- No window below the first (20_memory.md R70). -/
theorem windowAccess?_low (p : Params) {a : Nat} (n : Width) (h : a < 0x10000) : windowAccess? p a n = none := by
  refine windowAccess?_none (.inr fun w hw => ?_)
  have hlo := ((Window.holds_iff ..).1 hw).1
  have hbase := w.base_ge
  omega

theorem State.memRead_none {s : State} {a : Word} {n : Width} (hr : regAccess? a.toNat n = none)
    (hw : windowAccess? s.cfg a.toNat n = none) : s.memRead a n = 0 := by
  rw [State.memRead, hr, hw]

/-- A write that reaches no register and no window the host may write is ignored (20_memory.md R71). -/
theorem step_write_ignored {s : State} {a : Word} {n : Width} (v : Word) (hr : regAccess? a.toNat n = none)
    (hw : ∀ w, windowAccess? s.cfg a.toNat n = some w → w.hostWritable = false) :
    step { s with hostQueue := .write a n v :: s.hostQueue } = .next s := by
  rw [step_write (by simp [hr])]
  rcases s.memWrite_cases a n v with ⟨r, hr', -⟩ | ⟨-, w, hacc, hh, -⟩ | ⟨-, e⟩
  · rw [hr] at hr'
    cases hr'
  · rw [hw w hacc] at hh
    cases hh
  · rw [e]

/-- Settles O14: such an access reaches no register and no window. -/
theorem accessOutsideMapIsIgnored : Obligations.AccessOutsideMapIsIgnored := by
  intro s a n v h
  have hnone : regAccess? a.toNat n = none ∧ windowAccess? s.cfg a.toNat n = none := by
    rcases h with ⟨hlow, h⟩ | ⟨hhigh, h⟩
    · exact ⟨regAccess?_eq_none h, windowAccess?_low s.cfg n (by omega)⟩
    · refine ⟨regAccess?_none n hhigh, windowAccess?_none (h.imp_right fun h w hw => h w ?_)⟩
      exact (Window.holds_iff ..).1 hw
  obtain ⟨hr, hw⟩ := hnone
  exact ⟨State.memRead_none hr hw, step_write_ignored v hr fun w hacc => by rw [hw] at hacc; cases hacc⟩

/-- No two windows begin at one address (20_memory.md R70). -/
theorem Window.base_injective {v w : Window} (h : v.base = w.base) : v = w := by
  have inj : ∀ v ∈ Window.all, ∀ w ∈ Window.all, v.base = w.base → v = w := by decide
  exact inj v v.mem_all w w.mem_all h

theorem Window.base_aligned (w : Window) : w.base % 0x10000 = 0 := by cases w <;> decide

theorem Window.base_le {w : Window} (hw : w ≠ .clipMem) : w.base ≤ 0x80000 := by
  cases w
  case clipMem => exact absurd rfl hw
  all_goals decide

/-- The 64 KiB from the base of a window other than CLIP_MEM belong to that window alone (20_memory.md R70). -/
theorem Window.eq_of_holds_of_lt {p : Params} (hp : p.wf = true) {a n : Nat} (hn : 1 ≤ n) {v w : Window}
    (hv : v.holds p a n = true) (hw : w ≠ .clipMem) (hlo : w.base ≤ a) (hhi : a < w.base + 0x10000) : v = w := by
  obtain ⟨h1, h2⟩ := (Window.holds_iff ..).1 hv
  have hle := Window.base_le hw
  have hv' : v ≠ .clipMem := by
    rintro rfl
    simp only [Window.base] at h1
    omega
  have hsize := Window.size_le hp hv'
  have hva := v.base_aligned
  have hwa := w.base_aligned
  exact Window.base_injective (by omega)

/-- Settles O16: an access there reaches that read-only window, if any. -/
theorem cacheIsReadOnlyToHost : Obligations.CacheIsReadOnlyToHost := by
  intro s w a n v hp hw hlo hhi
  have hread : w ≠ .clipMem ∧ w.hostWritable = false := by
    revert hw
    cases w <;> decide
  refine step_write_ignored v (regAccess?_none n ?_) fun u hu => ?_
  · have := w.base_ge
    omega
  · obtain ⟨-, hh⟩ := windowAccess?_some hu
    rw [Window.eq_of_holds_of_lt hp n.bytes_pos hh hread.1 hlo hhi]
    exact hread.2

/-! ### Windows as the host reads them -/

/-- Every window ends below 2^32 (20_memory.md R70). -/
theorem Window.end_lt {p : Params} (hp : p.wf = true) (w : Window) : w.base + w.size p < 2 ^ 32 := by
  by_cases hc : w = .clipMem
  · subst hc
    have h := Nat.mul_le_mul (Params.maxFrames_le hp) (Params.frameBytes_le hp)
    simp only [Window.base, Window.size]
    omega
  · have hsize := Window.size_le hp hc
    have hbase := Window.base_le hc
    omega

/-- A byte read inside a window returns the byte of the window. -/
theorem State.toNat_memRead_one {s : State} (hp : s.cfg.wf = true) {w : Window} {i : Nat}
    (hi : i < w.size s.cfg) :
    (s.memRead (BitVec.ofNat 32 (w.base + i)) .one).toNat = (s.hostByte w i).toNat := by
  have hend := w.end_lt hp
  have hbase := w.base_ge
  have haddr : (BitVec.ofNat 32 (w.base + i)).toNat = w.base + i := by
    rw [BitVec.toNat_ofNat, Nat.mod_eq_of_lt (by omega)]
  have hacc : windowAccess? s.cfg (w.base + i) .one = some w :=
    windowAccess?_of_holds hp (Nat.mod_one _)
      ((Window.holds_iff ..).2 ⟨Nat.le_add_right _ _, by simp only [Width.bytes]; omega⟩)
  have hlt := (s.hostByte w i).isLt
  rw [State.memRead, haddr, regAccess?_none .one (by omega), hacc]
  simp only [Width.bytes, List.range_one, List.map_cons, List.map_nil, leValue, BitVec.toNat_ofNat,
    Nat.add_zero, Nat.mul_zero, Nat.add_sub_cancel_left]
  omega

theorem toNat_not8 (b : Byte) : (not8 b).toNat = 255 - b.toNat := by
  simp [not8]

/-- Settles O17: a byte read of FRAME_OUT is the byte read of CACHE, complemented under RAW. -/
theorem frameOutIsViewOfCache : Obligations.FrameOutIsViewOfCache := by
  intro s i hp hi
  rw [State.toNat_memRead_one hp (w := .frameOut) hi, State.toNat_memRead_one hp (w := .cache) hi]
  cases hc : s.cfg.outConv with
  | raw => simp only [State.hostByte, hc, toNat_not8]
  | stream => simp only [State.hostByte, hc]

/-! ### Registers -/

theorem toNat_append_add {m n : Nat} (x : BitVec m) (y : BitVec n) :
    (x ++ y).toNat = x.toNat * 2 ^ n + y.toNat := by
  rw [BitVec.toNat_append, ← Nat.shiftLeft_add_eq_or_of_lt y.isLt, Nat.shiftLeft_eq]

theorem toNat_setWidth_word {n : Nat} (x : BitVec n) (hn : n ≤ 32) : (x.setWidth 32).toNat = x.toNat :=
  BitVec.toNat_setWidth_of_le hn

/-- STATUS as a number (10_state.md R34). -/
theorem State.toNat_statusWord (s : State) :
    s.statusWord.toNat = s.status.ok.toNat + 2 * s.status.illegal.toNat + 4 * s.status.produced.toNat
      + 8 * s.cacheValid.toNat + 16 * s.status.key.toNat + 32 * s.status.crcMatch.toNat
      + 64 * s.status.truncAtBoundary.toNat + 256 * (failCode s.status.decErr).toNat
      + 4096 * (failCode s.status.rleErr).toNat + 65536 * (phaseCode s.status.failPhase).toNat := by
  simp only [State.statusWord, toNat_append_add, BitVec.toNat_ofBool, BitVec.ofNat_eq_ofNat,
    BitVec.toNat_ofNat, Nat.zero_mod]
  omega

/-- A bit of a word is the parity of its quotient. -/
theorem getLsbD_of_toNat {v : Word} {i : Nat} {b : Bool} (h : v.toNat / 2 ^ i % 2 = b.toNat) :
    v.getLsbD i = b := by
  rw [BitVec.getLsbD, Nat.testBit_eq_decide_div_mod_eq, h]
  cases b <;> rfl

/-- A register the host may not write ignores a write (10_state.md R32). -/
theorem State.writeReg_readOnly (s : State) (v : Word) {r : Reg}
    (hr : r ∉ [Reg.cmd, .cfgWindow, .clipFrames, .crcExpect, .runLen, .sel, .hdrArg]) :
    s.writeReg r v = s := by
  cases r
  case cmd | cfgWindow | clipFrames | crcExpect | runLen | sel | hdrArg => exact absurd (by decide) hr
  all_goals rfl

/-- CFG_WINDOW stores 1 where the low half is 0 (10_state.md R35). -/
theorem toNat_legalWindow (v : Word) :
    (if v.setWidth 16 = 0 then (1 : Half) else v.setWidth 16).toNat = max 1 (v.toNat % 65536) := by
  have hlow : (v.setWidth 16).toNat = v.toNat % 65536 := BitVec.toNat_setWidth ..
  split
  · rename_i h
    rw [h] at hlow
    rw [← hlow]
    rfl
  · rename_i h
    have hne : (v.setWidth 16).toNat ≠ 0 := fun h0 => h (BitVec.eq_of_toNat_eq h0)
    omega

/-- Settles O12: each write is the register's WARL rule (10_state.md R35 to R49), read back at the same
register. -/
theorem registerWritesAreLegalised : Obligations.RegisterWritesAreLegalised := by
  intro s v hp
  have hF := Params.maxFrames_le hp
  have hN := Params.frameBytes_le hp
  refine ⟨⟨_, step_hostWr (by decide) s v, rfl, ?_⟩, ⟨_, step_hostWr (by decide) s v, rfl, ?_⟩,
    ⟨_, step_hostWr (by decide) s v, rfl, ?_⟩, ⟨_, step_hostWr (by decide) s v, rfl, ?_⟩,
    ⟨_, step_hostWr (by decide) s v, rfl, ?_⟩, ⟨_, step_hostWr (by decide) s v, rfl, ?_⟩, fun r hr => ?_⟩
  case refine_7 =>
    have hro : r ≠ .cmd ∧ r ∉ [Reg.cmd, .cfgWindow, .clipFrames, .crcExpect, .runLen, .sel, .hdrArg] := by
      revert hr
      cases r <;> decide
    rw [step_hostWr hro.1, s.writeReg_readOnly v hro.2]
  all_goals simp only [State.readReg, State.writeReg]
  · rw [toNat_setWidth_word _ (by decide), toNat_legalWindow]
  · rw [BitVec.toNat_ofNat]
    omega
  · rw [toNat_setWidth_word _ (by decide), BitVec.toNat_setWidth]
  · rw [BitVec.toNat_ofNat]
    omega
  · rw [toNat_setWidth_word _ (by decide), BitVec.toNat_ofBool, BitVec.getLsbD, Nat.testBit_zero]
    rcases Nat.mod_two_eq_zero_or_one v.toNat with h | h <;> simp [h]
  · rw [toNat_setWidth_word _ (by decide), BitVec.toNat_setWidth]

/-- GEOM holds the width and the height of legal parameters (10_state.md R36). -/
theorem readReg_geom {s : State} (hp : s.cfg.wf = true) :
    s.readReg .geom = BitVec.ofNat 32 (s.cfg.width + s.cfg.height * 65536) := by
  obtain ⟨-, hw, -⟩ := (Params.wf_iff _).1 hp
  have hh := (Params.height_le_frameBytes hp).trans (Params.frameBytes_le hp)
  apply BitVec.eq_of_toNat_eq
  simp only [State.readReg, toNat_append_add, BitVec.toNat_ofNat]
  omega

/-- Settles O10: the maps row by row, and each register after reset; GEOM alone needs legal parameters. -/
theorem powerOnRegisterValues : Obligations.PowerOnRegisterValues := by
  refine ⟨fun r => by cases r <;> rfl, fun p w => by cases w <;> rfl, fun p hp => ⟨fun r => ?_, rfl, rfl, fun a => rfl⟩⟩
  rw [State.memRead_offset]
  cases r
  case geom => exact readReg_geom hp
  case status => exact BitVec.eq_of_toNat_eq ((State.afterPowerOn p).toNat_statusWord.trans rfl)
  case cls => exact BitVec.eq_of_toNat_eq (by simp [State.readReg, State.afterPowerOn])
  case white => exact BitVec.eq_of_toNat_eq (by simp [State.readReg, State.afterPowerOn])
  all_goals rfl

/-- Settles O13: the word is the sum of its fields, each below the weight of the next. -/
theorem statusWordLayout : Obligations.StatusWordLayout := by
  intro s v hv
  have hword : v = s.statusWord := hv.trans (s.memRead_offset .status)
  have hval := s.toNat_statusWord
  rw [← hword] at hval
  have hok := s.status.ok.toNat_lt
  have hill := s.status.illegal.toNat_lt
  have hprod := s.status.produced.toNat_lt
  have hvalid := s.cacheValid.toNat_lt
  have hkey := s.status.key.toNat_lt
  have hmatch := s.status.crcMatch.toNat_lt
  have htrunc := s.status.truncAtBoundary.toNat_lt
  have hdec := (failCode s.status.decErr).isLt
  have hrle := (failCode s.status.rleErr).isLt
  refine ⟨getLsbD_of_toNat ?_, getLsbD_of_toNat ?_, getLsbD_of_toNat ?_, getLsbD_of_toNat ?_, getLsbD_of_toNat ?_,
    getLsbD_of_toNat ?_, getLsbD_of_toNat ?_, getLsbD_of_toNat ?_, ?_, ?_, ?_⟩
  case refine_9 =>
    trans (failCode s.status.decErr).toNat
    · omega
    · cases s.status.decErr with
      | none => rfl
      | some k => cases k <;> rfl
  case refine_10 =>
    trans (failCode s.status.rleErr).toNat
    · omega
    · cases s.status.rleErr with
      | none => rfl
      | some k => cases k <;> rfl
  case refine_11 =>
    trans (phaseCode s.status.failPhase).toNat
    · omega
    · cases s.status.failPhase with
      | none => rfl
      | some p => cases p <;> rfl
  case refine_8 =>
    rw [Bool.toNat_false]
    omega
  all_goals omega

end Sys2Proof.Machine

end

section
/-!
PROOFS. Host reads and writes of the windows as byte sequences: the bus's byte order (20_memory.md R73), what
a write stores and a read gives back, and that a read only returns its value (R75).
-/

namespace Sys2Proof.Machine

/-! ### Little-endian values and words -/

theorem leValue_append_singleton (bs : List Byte) (b : Byte) :
    leValue (bs ++ [b]) = leValue bs + b.toNat * 256 ^ bs.length := by
  induction bs with
  | nil => simp [leValue]
  | cons c bs ih =>
    simp only [List.cons_append, leValue, ih, List.length_cons, Nat.pow_succ]
    ring

/-- R73's sum `Σ byte(k) << (8k)`. -/
theorem leValue_map_range (f : Nat → Byte) (n : Nat) :
    leValue ((List.range n).map f) = ((List.range n).map fun k => (f k).toNat * 2 ^ (8 * k)).sum := by
  induction n with
  | zero => rfl
  | succ n ih =>
    simp only [List.range_succ, List.map_append, List.map_cons, List.map_nil, leValue_append_singleton, ih,
      List.sum_append, List.sum_singleton, List.length_map, List.length_range, Nat.pow_mul, Nat.reducePow]

theorem getElem_leBytes_word {n k : Nat} (v : Word) (h : k < (leBytes n v.toNat).length) :
    (leBytes n v.toNat)[k] = v.extractLsb' (8 * k) 8 := by
  rw [getElem_leBytes, BitVec.extractLsb', Nat.shiftRight_eq_div_pow, Nat.pow_mul]

/-! ### What a window stores of a word -/

/-- What a window stores of a word the host writes: the two bits of each byte that exist in SEQ_MAJ and
SEQ_STB (10_state.md R60), all of it elsewhere. -/
def Window.storedWord (w : Window) (v : Word) : Word :=
  if w = .seqMaj ∨ w = .seqStb then v &&& 0x03030303 else v

theorem storedByte_eq (w : Window) (b : Byte) :
    State.storedByte w b = if w = .seqMaj ∨ w = .seqStb then b &&& 3 else b := by
  cases w <;> rfl

theorem storedByte_storedByte (w : Window) (b : Byte) :
    State.storedByte w (State.storedByte w b) = State.storedByte w b := by
  simp only [storedByte_eq]
  split
  · rw [BitVec.and_assoc, BitVec.and_self]
  · rfl

/-- Each byte of the stored word is the stored byte. -/
theorem extractLsb'_storedWord (w : Window) (v : Word) {k : Nat} (hk : k < 4) :
    (w.storedWord v).extractLsb' (8 * k) 8 = State.storedByte w (v.extractLsb' (8 * k) 8) := by
  have hmask : ∀ k < 4, (0x03030303 : Word).extractLsb' (8 * k) 8 = 3 := by decide
  rw [Window.storedWord, storedByte_eq]
  split
  · rw [BitVec.extractLsb'_and, hmask k hk]
  · rfl

theorem Width.bytes_le (n : Width) : n.bytes ≤ 4 := by cases n <;> decide

/-- The bytes a host write of `v` stores are those of the stored word. -/
theorem map_storedByte_leBytes (w : Window) (n : Width) (v : Word) :
    (leBytes n.bytes v.toNat).map (State.storedByte w) = leBytes n.bytes (w.storedWord v).toNat := by
  apply List.ext_getElem (by simp)
  intro k h1 h2
  have hk : k < n.bytes := by simpa using h2
  rw [List.getElem_map, getElem_leBytes_word, getElem_leBytes_word,
    extractLsb'_storedWord w v (hk.trans_le n.bytes_le)]

/-! ### Reads and writes inside a window -/

/-- Only FRAME_OUT reads otherwise than as its own bytes (10_state.md R57). -/
theorem State.hostByte_eq (s : State) {w : Window} (hw : w ≠ .frameOut) (i : Nat) :
    s.hostByte w i = State.storedByte w (s.readByte (w.base + i)) := by
  cases w
  case frameOut => exact absurd rfl hw
  all_goals rfl

theorem Window.hostWritable_iff (w : Window) : w.hostWritable = true ↔ w ∉ [Window.cache, .frameOut] := by
  cases w <;> decide

section
variable {s : State} {w : Window} {a : Word} {n : Width} (hp : s.cfg.wf = true)
  (halign : a.toNat % n.bytes = 0) (hlo : w.base ≤ a.toNat) (hhi : a.toNat + n.bytes ≤ w.base + w.size s.cfg)
include hp halign hlo hhi

/-- An aligned access inside a window reaches that window and no register (20_memory.md R71, R72). -/
theorem access_window : regAccess? a.toNat n = none ∧ windowAccess? s.cfg a.toNat n = some w := by
  have hbase := w.base_ge
  exact ⟨regAccess?_none n (by omega),
    windowAccess?_of_holds hp halign ((Window.holds_iff ..).2 ⟨hlo, hhi⟩)⟩

theorem State.toNat_memRead_window : (s.memRead a n).toNat =
    leValue ((List.range n.bytes).map fun k => s.hostByte w (a.toNat - w.base + k)) := by
  obtain ⟨hr, hw⟩ := access_window hp halign hlo hhi
  have hlt := leValue_lt ((List.range n.bytes).map fun k => s.hostByte w (a.toNat - w.base + k))
  rw [List.length_map, List.length_range] at hlt
  have hpow : 256 ^ n.bytes ≤ 2 ^ 32 := Nat.pow_le_pow_right (by decide) n.bytes_le
  rw [State.memRead, hr, hw]
  exact Nat.mod_eq_of_lt (hlt.trans_le hpow)

/-- A read of a window is the little-endian sum of its byte reads (20_memory.md R73). -/
theorem State.toNat_memRead_eq_sum : (s.memRead a n).toNat =
    ((List.range n.bytes).map fun k => (s.memRead (a + BitVec.ofNat 32 k) .one).toNat * 2 ^ (8 * k)).sum := by
  rw [State.toNat_memRead_window hp halign hlo hhi, leValue_map_range]
  congr 1
  apply List.map_congr_left
  intro k hk
  have hk := List.mem_range.1 hk
  have haddr : a + BitVec.ofNat 32 k = BitVec.ofNat 32 (w.base + (a.toNat - w.base + k)) := by
    rw [← Nat.add_assoc, Nat.add_sub_cancel' hlo, BitVec.ofNat_add, BitVec.ofNat_toNat, BitVec.setWidth_eq]
  rw [haddr, State.toNat_memRead_one hp (by omega)]

/-- A write of a window the host may write stores the bytes of the stored word, low byte first, and does
nothing else (20_memory.md R73). -/
theorem State.memWrite_window (hh : w.hostWritable = true) (v : Word) :
    s.memWrite a n v = s.writeBytes a.toNat (leBytes n.bytes (w.storedWord v).toNat) := by
  obtain ⟨hr, hw⟩ := access_window hp halign hlo hhi
  rw [State.memWrite, hr, hw]
  simp only [hh, if_true, map_storedByte_leBytes]

theorem step_write_window (hh : w.hostWritable = true) (v : Word) :
    step { s with hostQueue := .write a n v :: s.hostQueue } =
      .next (s.writeBytes a.toNat (leBytes n.bytes (w.storedWord v).toNat)) := by
  have hr := (access_window hp halign hlo hhi).1
  rw [step_write (by simp [hr]), State.memWrite_window hp halign hlo hhi hh]

/-- A read of the same width at the same address, right after a write, returns what was stored. -/
theorem State.toNat_memRead_writeBytes (hw : w ≠ .frameOut) (v : Word) :
    ((s.writeBytes a.toNat (leBytes n.bytes (w.storedWord v).toNat)).memRead a n).toNat =
      (w.storedWord v).toNat % 256 ^ n.bytes := by
  rw [State.toNat_memRead_window (s := s.writeBytes a.toNat _) hp halign hlo hhi, ← leValue_leBytes, ← map_storedByte_leBytes]
  congr 1
  apply List.ext_getElem (by simp)
  intro k h1 h2
  have haddr : w.base + (a.toNat - w.base + k) = a.toNat + k := by omega
  have hbyte := State.readByte_of_byteAt (s := s.writeBytes a.toNat _) (Memory.get?_write_add (m := s.mem) h2)
  rw [List.getElem_map, List.getElem_range, State.hostByte_eq _ hw, haddr, hbyte, List.getElem_map,
    storedByte_storedByte]

end

theorem State.byteAt_writeBytes_leBytes (s : State) (a : Nat) (v : Word) {n k : Nat} (hk : k < n) :
    (s.writeBytes a (leBytes n v.toNat)).byteAt (a + k) = some (v.extractLsb' (8 * k) 8) := by
  have hlen : k < (leBytes n v.toNat).length := by rwa [length_leBytes]
  rw [← getElem_leBytes_word v hlen]
  exact Memory.get?_write_add hlen

theorem State.sameOutside_writeBytes (s : State) (a : Nat) (bs : List Byte) :
    s.SameOutside (s.writeBytes a bs) a bs.length :=
  fun _ h => Memory.get?_write_of_not_mem h

/-! ### Registers as words -/

theorem State.toNat_readReg_geom {s : State} (hp : s.cfg.wf = true) :
    (s.readReg .geom).toNat = s.cfg.width + 65536 * s.cfg.height := by
  obtain ⟨-, hw, -⟩ := (Params.wf_iff _).1 hp
  have hh := (Params.height_le_frameBytes hp).trans (Params.frameBytes_le hp)
  rw [readReg_geom hp, BitVec.toNat_ofNat]
  omega

theorem State.toNat_readReg_frameBytes {s : State} (hp : s.cfg.wf = true) :
    (s.readReg .frameBytes).toNat = s.cfg.width * s.cfg.height / 8 :=
  Nat.mod_eq_of_lt ((Params.frameBytes_le hp).trans_lt (by decide))

theorem State.toNat_readReg_cls (s : State) :
    (s.readReg .cls).toNat = s.majL.toNat + 2 * s.majR.toNat := by
  simp only [State.readReg, toNat_setWidth_word _ (by decide : 1 + 1 ≤ 32), toNat_append_add, BitVec.toNat_ofBool]
  omega

theorem State.toNat_readReg_white (s : State) :
    (s.readReg .white).toNat = s.whiteL.toNat + 65536 * s.whiteR.toNat := by
  simp only [State.readReg, toNat_append_add]
  omega

theorem State.toNat_readReg_sel (s : State) : (s.readReg .sel).toNat = s.selHasPrev.toNat := by
  rw [State.readReg, toNat_setWidth_word _ (by decide), BitVec.toNat_ofBool]

/-! ### The obligations -/

/-- Settles O15: each register is read at its offset, and a window's bytes are read and stored low byte
first. -/
theorem hostBusIsLittleEndian : Obligations.HostBusIsLittleEndian := by
  refine ⟨State.memRead_offset, fun s hp => ?_, fun s w a n hp halign hlo hhi => ⟨?_, fun hw v => ?_⟩⟩
  · have word := s.memRead_offset
    have value (r : Reg) := congrArg BitVec.toNat (s.memRead_offset r)
    have narrow {m : Nat} (x : BitVec m) (hm : m ≤ 32) := toNat_setWidth_word x hm
    exact ⟨word .cmd, (value .cfgWindow).trans (narrow _ (by decide)),
      (value .geom).trans (State.toNat_readReg_geom hp),
      (value .frameBytes).trans (State.toNat_readReg_frameBytes hp), word .clipFrames, word .encBytes,
      (value .crcResult).trans (narrow _ (by decide)), (value .crcExpect).trans (narrow _ (by decide)),
      (value .decHdr).trans (narrow _ (by decide)), word .runLen, word .runPos,
      (value .sel).trans s.toNat_readReg_sel, word .nzCount, (value .cls).trans s.toNat_readReg_cls,
      (value .white).trans s.toNat_readReg_white, (value .hdrArg).trans (narrow _ (by decide)),
      word .decConsumed⟩
  · exact State.toNat_memRead_eq_sum hp halign hlo hhi
  · have hh := w.hostWritable_iff.2 hw
    have hout : w ≠ .frameOut := by
      rintro rfl
      exact hw (by decide)
    refine ⟨_, step_write_window hp halign hlo hhi hh v, rfl, fun k hk => ?_, ?_, ?_⟩
    · rw [s.byteAt_writeBytes_leBytes _ _ hk, extractLsb'_storedWord w v (hk.trans_le n.bytes_le), storedByte_eq]
    · simpa using s.sameOutside_writeBytes a.toNat (leBytes n.bytes (w.storedWord v).toNat)
    · rw [State.toNat_memRead_writeBytes hp halign hlo hhi hout, Window.storedWord, Nat.pow_mul,
        apply_ite BitVec.toNat]

/-- Settles O18: the step is the answer and the next draw; the value read does not depend on the pending
events. -/
theorem hostReadHasNoSideEffect : Obligations.HostReadHasNoSideEffect := by
  intro s a n rest hq
  have hread : State.memRead { s with hostQueue := rest } a n = s.memRead a n := rfl
  refine ⟨State.nextDraw { s with hostQueue := rest, hostReads := s.hostReads ++ [s.memRead a n] }, ?_, rfl⟩
  simp only [step, hq, State.serve, hread]

end Sys2Proof.Machine

end

section
/-!
PROOFS. The decoder of command words (30_encoding.md R100 to R102): what a lookup in the opcode map answers,
and what the decoder answers in terms of a word's two fields.
-/

namespace Sys2Proof

/-! ### The opcode map -/

/-- Where no two rows share an opcode, the lookup finds every row. -/
theorem lookupOpcode_of_mem {op : Byte} {rows : List (Byte × Instr)} {i : Instr}
    (hd : rows.Pairwise (fun a b => a.1 ≠ b.1)) (h : (op, i) ∈ rows) : lookupOpcode op rows = some i := by
  induction rows with
  | nil => cases h
  | cons r rows ih =>
    obtain ⟨hne, hd⟩ := List.pairwise_cons.1 hd
    rw [lookupOpcode]
    rcases List.mem_cons.1 h with rfl | h
    · rw [if_pos rfl]
    · rw [if_neg (hne _ h).symm, ih hd h]

/-- Every command has its row in the opcode map. -/
theorem opcode_mem_opcodeMap (i : Instr) : (opcode i, i) ∈ opcodeMap := by
  cases i <;> decide

/-- The opcode map and the opcodes the encoder writes are the same table. -/
theorem lookupOpcode_opcodeMap_iff {op : Byte} {i : Instr} :
    lookupOpcode op opcodeMap = some i ↔ op = opcode i := by
  constructor
  · intro h
    exact opcode_of_mem_opcodeMap _ (lookupOpcode_mem h)
  · rintro rfl
    exact lookupOpcode_of_mem opcodeMap_distinct (opcode_mem_opcodeMap i)

/-! ### The decoder's answer -/

theorem decode_of_argField_ne_zero {w : Word} (h : argField w ≠ 0) : decode w = .illegal .argReserved := by
  rw [decode, if_neg h]

theorem decode_of_lookupOpcode_some {w : Word} {i : Instr} (ha : argField w = 0)
    (h : lookupOpcode (opcodeField w) opcodeMap = some i) : decode w = .legal i := by
  rw [decode, if_pos ha, h]

theorem decode_of_lookupOpcode_none {w : Word} (ha : argField w = 0)
    (h : lookupOpcode (opcodeField w) opcodeMap = none) : decode w = .illegal .opcodeReserved := by
  rw [decode, if_pos ha, h]

theorem decode_of_opcodeField_reserved {w : Word} (ha : argField w = 0) (ho : ∀ i, opcodeField w ≠ opcode i) :
    decode w = .illegal .opcodeReserved :=
  decode_of_lookupOpcode_none ha
    (Option.eq_none_iff_forall_ne_some.2 fun i h => ho i (lookupOpcode_opcodeMap_iff.1 h))

theorem decode_eq_legal_iff {w : Word} {i : Instr} :
    decode w = .legal i ↔ argField w = 0 ∧ opcodeField w = opcode i := by
  constructor
  · intro h
    by_cases ha : argField w = 0
    · cases hl : lookupOpcode (opcodeField w) opcodeMap with
      | none => cases (decode_of_lookupOpcode_none ha hl).symm.trans h
      | some j =>
        cases (decode_of_lookupOpcode_some ha hl).symm.trans h
        exact ⟨ha, lookupOpcode_opcodeMap_iff.1 hl⟩
    · cases (decode_of_argField_ne_zero ha).symm.trans h
  · rintro ⟨ha, ho⟩
    exact decode_of_lookupOpcode_some ha (lookupOpcode_opcodeMap_iff.2 ho)

/-- A word is its two fields, so the one word with a command's fields is the encoder's. -/
theorem eq_encode_of_fields {w : Word} {i : Instr} (ha : argField w = 0) (ho : opcodeField w = opcode i) :
    w = encode i := by
  rw [← argField_append_opcodeField w, ha, ho, encode]

/-- The encoder is the decoder's inverse. -/
theorem decode_eq_legal_iff_eq_encode {w : Word} {i : Instr} : decode w = .legal i ↔ w = encode i := by
  constructor
  · intro h
    obtain ⟨ha, ho⟩ := decode_eq_legal_iff.1 h
    exact eq_encode_of_fields ha ho
  · rintro rfl
    exact Machine.decode_encode i

/-- Settles O1: the opcode map holds each command once, under the opcode the encoder writes, and a word is its
two fields. -/
theorem commandWordsDecodeExactly : Obligations.CommandWordsDecodeExactly :=
  ⟨fun _ _ => decode_eq_legal_iff, fun _ _ => decode_eq_legal_iff_eq_encode,
    fun _ => decode_of_argField_ne_zero, fun _ => decode_of_opcodeField_reserved⟩

end Sys2Proof

end

section
/-!
PROOFS. Input inversion and the border classifier (40_border.md R130 to R134, R138, R139): what one buffer
write leaves in memory, and the pixels of a frame in memory.
-/

namespace Sys2Proof.Machine

/-! ### A memory after one write -/

theorem State.byteAt_of_mem_write {s t : State} {base : Nat} {bs : List Byte} (h : t.mem = s.mem.write base bs)
    {i : Nat} (hi : i < bs.length) : t.byteAt (base + i) = some bs[i] := by
  rw [State.byteAt_def, h, Memory.get?_write_add hi]

theorem State.sameOutside_of_mem_write {s t : State} {base : Nat} {bs : List Byte}
    (h : t.mem = s.mem.write base bs) : s.SameOutside t base bs.length := by
  intro a ha
  rw [State.byteAt_def, h, Memory.get?_write_of_not_mem ha, State.byteAt_def]

/-! ### INVERT -/

theorem execInvert_mem {s t : State} (h : exec .invert s = .next t) :
    t.mem = s.mem.write Window.fbA.base (invertFrame (s.readFrame .fbA)) := by
  cases h
  rfl

theorem execInvert_byteAt {s t : State} (h : exec .invert s = .next t) {i : Nat} (hi : i < s.cfg.frameBytes) :
    t.byteAt (Window.fbA.base + i) = some (not8 (s.readByte (Window.fbA.base + i))) := by
  have hlen : i < (invertFrame (s.readFrame .fbA)).length := by simpa using hi
  rw [State.byteAt_of_mem_write (execInvert_mem h) hlen, getElem_invertFrame]
  simp only [State.readFrame, State.getElem_readBytes]

/-- Settles O19: INVERT is one write of the complemented frame, and complementing a byte twice restores it. -/
theorem invertComplementsFrame : Obligations.InvertComplementsFrame := by
  refine ⟨by decide, fun s => ?_⟩
  obtain ⟨t, ht⟩ := exec_next .invert s
  obtain ⟨u, hu⟩ := exec_next .invert t
  refine ⟨t, ht, fun i hi => execInvert_byteAt ht hi, ?_, ?_, u, hu, fun i hi => ?_⟩
  · simpa using State.sameOutside_of_mem_write (execInvert_mem ht)
  · cases ht
    rfl
  · rw [execInvert_byteAt hu (exec_cfg ht ▸ hi), State.readByte_of_byteAt (execInvert_byteAt ht hi), not8_not8]

/-! ### CLASSIFY -/

/-- Pixel (r, c) of a frame in memory is the bit of the byte R132 names. -/
theorem pixel_readFrame (s : State) (hp : s.cfg.wf = true) (w : Window) {r c : Nat} (hr : r < s.cfg.height)
    (hc : c / 8 < s.cfg.rowBytes) :
    pixel s.cfg (s.readFrame w) r c =
      (s.readByte (w.base + (r * s.cfg.rowBytes + c / 8))).getLsbD (pixelBit s.cfg.pixelOrder c) := by
  have hin : r * s.cfg.rowBytes + c / 8 < s.cfg.frameBytes := by
    have hrow : (r + 1) * s.cfg.rowBytes ≤ s.cfg.height * s.cfg.rowBytes := Nat.mul_le_mul_right _ hr
    rw [Nat.succ_mul] at hrow
    rw [Params.frameBytes_eq hp]
    omega
  rw [pixel, List.getD_eq_getElem?_getD, State.readFrame, State.getElem?_readBytes, State.frameSize, if_pos hin,
    Option.getD_some]

theorem columnWhite_readFrame (s : State) (hp : s.cfg.wf = true) (w : Window) {c : Nat}
    (hc : c / 8 < s.cfg.rowBytes) :
    columnWhite s.cfg (s.readFrame w) c = (List.range s.cfg.height).countP (fun r =>
      (s.readByte (w.base + (r * s.cfg.rowBytes + c / 8))).getLsbD (pixelBit s.cfg.pixelOrder c)) := by
  refine List.countP_congr fun r hr => ?_
  rw [pixel_readFrame s hp w (List.mem_range.1 hr) hc]

/-- A white count fits its 16-bit register field (10_state.md R48). -/
theorem toNat_ofNat_columnWhite {p : Params} (hp : p.wf = true) (fr : List Byte) (c : Nat) :
    (BitVec.ofNat 16 (columnWhite p fr c)).toNat = columnWhite p fr c := by
  have h1 := columnWhite_le p fr c
  have h2 := (Params.height_le_frameBytes hp).trans (Params.frameBytes_le hp)
  exact Nat.mod_eq_of_lt (by omega)

/-- The last column is the eighth of the row's last byte. -/
theorem lastColumn_div_mod {p : Params} (hp : p.wf = true) :
    (p.width - 1) / 8 = p.rowBytes - 1 ∧ (p.width - 1) % 8 = 7 := by
  obtain ⟨h1, -, h2, -⟩ := (Params.wf_iff p).1 hp
  rw [Params.rowBytes]
  omega

theorem pixelBit_mod (o : PixelOrder) (c : Nat) : pixelBit o (c % 8) = pixelBit o c := by
  cases o <;> simp [pixelBit]

theorem execClassify_whiteL {s t : State} (hp : s.cfg.wf = true) (h : exec .classify s = .next t) :
    t.whiteL.toNat = columnWhite s.cfg (s.readFrame .fbA) 0 := by
  cases h
  exact toNat_ofNat_columnWhite hp _ _

theorem execClassify_whiteR {s t : State} (hp : s.cfg.wf = true) (h : exec .classify s = .next t) :
    t.whiteR.toNat = columnWhite s.cfg (s.readFrame .fbA) (s.cfg.width - 1) := by
  cases h
  exact toNat_ofNat_columnWhite hp _ _

/-- Settles O20: the counts are those of columns 0 and P_W - 1, whose bytes and bits are the edges of the rows. -/
theorem classifyCountsColumns : Obligations.ClassifyCountsColumns := by
  refine ⟨by decide, fun s hp => ?_⟩
  obtain ⟨t, ht⟩ := exec_next .classify s
  have hrow := Params.rowBytes_pos hp
  obtain ⟨hdiv, hmod⟩ := lastColumn_div_mod hp
  have hL := execClassify_whiteL hp ht
  have hR := execClassify_whiteR hp ht
  refine ⟨t, ht, ?_, ?_, ?_, ?_, ?_⟩
  · rw [hL, columnWhite_readFrame s hp .fbA (by omega)]
    cases s.cfg.pixelOrder <;> rfl
  · rw [hR, columnWhite_readFrame s hp .fbA (by omega), hdiv, ← pixelBit_mod, hmod]
    simp only [← Nat.add_sub_assoc hrow]
    cases s.cfg.pixelOrder <;> rfl
  · rw [hL]
    cases ht
    rfl
  · rw [hR]
    cases ht
    rfl
  · cases ht
    rfl

end Sys2Proof.Machine

end

section
/-!
PROOFS. The look-ahead stabilizer (40_border.md R135 to R137, R140): the rule of one frame, from which the
suppression of short runs follows, and each side of the stabilized entries.
-/

namespace Sys2Proof.Machine

/-! ### One frame -/

/-- What the look-ahead of `n` frames after frame `i` confirms, index by index (R136). -/
theorem all_take_drop_iff (m : List Bool) (i n : Nat) (b : Bool) :
    ((m.drop (i + 1)).take n).all (· == b) = true ↔
      ∀ j, 1 ≤ j → j ≤ min n (m.length - 1 - i) → m[i + j]? = some b := by
  rw [List.all_eq_true, List.forall_mem_iff_forall_getElem]
  constructor
  · intro h j h1 h2
    have hj := h (j - 1) (by simp only [List.length_take, List.length_drop]; omega)
    have hidx : i + 1 + (j - 1) = i + j := by omega
    simp only [List.getElem_take, List.getElem_drop, beq_iff_eq, hidx] at hj
    exact List.getElem?_eq_some_iff.2 ⟨_, hj⟩
  · intro h j hj
    simp only [List.length_take, List.length_drop] at hj
    obtain ⟨_, hb⟩ := List.getElem?_eq_some_iff.1 (h (j + 1) (by omega) (by omega))
    have hidx : i + 1 + j = i + (j + 1) := by omega
    simp only [List.getElem_take, List.getElem_drop, beq_iff_eq, hidx, hb]

/-- The state after raw majority `f` of a list, `cur` standing in front of the states: the majority where it
differs from the state before and the look-ahead confirms it, else the state before (R135). -/
theorem getElem?_stabilizeFrom (wn : Nat) (cur : Bool) (m : List Bool) (f : Nat) (h : f < m.length) :
    (stabilizeFrom wn cur m)[f]? =
      if (cur :: stabilizeFrom wn cur m)[f]? ≠ some m[f] ∧
          ((m.drop (f + 1)).take (wn - 1)).all (· == m[f]) = true
      then some m[f] else (cur :: stabilizeFrom wn cur m)[f]? := by
  induction m generalizing cur f with
  | nil => cases h
  | cons b rest ih =>
    cases f with
    | zero =>
      simp only [stabilizeFrom, List.getElem?_cons_zero, List.getElem_cons_zero, List.drop_succ_cons, List.drop_zero,
        ne_eq, Option.some.injEq, eq_comm (a := b) (b := cur), apply_ite some]
    | succ f => exact ih _ f (Nat.lt_of_succ_lt_succ h)

theorem getElem?_stabilize_zero (wn : Nat) (m : List Bool) (h : 0 < m.length) :
    (stabilize wn m)[0]? = some m[0] := by
  cases m with
  | nil => cases h
  | cons b rest => rfl

theorem getElem?_stabilize_succ (wn : Nat) (m : List Bool) (f : Nat) (h : f + 1 < m.length) :
    (stabilize wn m)[f + 1]? =
      if (stabilize wn m)[f]? ≠ some m[f + 1] ∧
          (∀ j, 1 ≤ j → j ≤ min (wn - 1) (m.length - 1 - (f + 1)) → m[f + 1 + j]? = some m[f + 1])
      then some m[f + 1] else (stabilize wn m)[f]? := by
  simp only [← all_take_drop_iff]
  cases m with
  | nil => cases h
  | cons b rest => exact getElem?_stabilizeFrom wn b rest f (Nat.lt_of_succ_lt_succ h)

/-- Settles O21: frame 0 is the head, and a later frame is one turn of the stabilizer. -/
theorem stabilizerFrameRule : Obligations.StabilizerFrameRule := by
  intro wn m _
  exact ⟨length_stabilize wn m, getElem?_stabilize_zero wn m, getElem?_stabilize_succ wn m⟩

/-! ### Short runs -/

/-- A window of 1 has no look-ahead, so every majority is taken. -/
theorem stabilizeFrom_one (cur : Bool) (m : List Bool) : stabilizeFrom 1 cur m = m := by
  induction m generalizing cur with
  | nil => rfl
  | cons b rest ih =>
    by_cases h : b = cur <;> simp [stabilizeFrom, ih, h]

theorem stabilize_one (m : List Bool) : stabilize 1 m = m := by
  cases m with
  | nil => rfl
  | cons b rest => rw [stabilize, stabilizeFrom_one]

/-- A state is kept where a raw majority inside the window, the frame's own included, is that state. -/
theorem getElem?_stabilize_keep {wn f j : Nat} {m : List Bool} {b : Bool} (hs : (stabilize wn m)[f]? = some b)
    (hj : j < wn) (hm : m[f + 1 + j]? = some b) : (stabilize wn m)[f + 1]? = some b := by
  obtain ⟨hlen, -⟩ := List.getElem?_eq_some_iff.1 hm
  rw [getElem?_stabilize_succ wn m f (by omega), hs]
  split
  · rename_i hc
    obtain ⟨hne, hall⟩ := hc
    rcases Nat.eq_zero_or_pos j with rfl | hpos
    · exact absurd (List.getElem?_eq_some_iff.1 hm).2.symm (by simpa using hne)
    · exact (hall j hpos (by omega)).symm.trans hm
  · rfl

/-- Settles O22: at each of the differing frames the end of the run lies inside the window. -/
theorem stabilizerSuppressesBlips : Obligations.StabilizerSuppressesBlips := by
  refine ⟨stabilize_one, fun wn m f k b _ hk hs _ hend j => ?_⟩
  induction j with
  | zero => exact fun _ => hs
  | succ j ih =>
    intro hj
    have hidx : f + j + 1 + (k - j) = f + k + 1 := by omega
    exact getElem?_stabilize_keep (ih (by omega)) (by omega : k - j < wn) (hidx ▸ hend)

/-! ### STABILIZE -/

theorem seqLefts_stabilizeEntries (wn : Nat) (es : List Byte) :
    seqLefts (stabilizeEntries wn es) = stabilize wn (seqLefts es) := by
  apply List.ext_getElem
  · simp [seqLefts]
  · intro i h1 h2
    simp only [seqLefts, stabilizeEntries, List.getElem_map, List.getElem_zipWith, seqEntry_left]

theorem seqRights_stabilizeEntries (wn : Nat) (es : List Byte) :
    seqRights (stabilizeEntries wn es) = stabilize wn (seqRights es) := by
  apply List.ext_getElem
  · simp [seqRights]
  · intro i h1 h2
    simp only [seqRights, stabilizeEntries, List.getElem_map, List.getElem_zipWith, seqEntry_right]

theorem seqLefts_readMajorities (s : State) : seqLefts s.readMajorities =
    (List.range s.clipFrames.toNat).map fun g => (s.readByte (Window.seqMaj.base + g)).getLsbD 0 := by
  rw [seqLefts, State.readMajorities, State.readBytes, List.map_map]
  rfl

theorem seqRights_readMajorities (s : State) : seqRights s.readMajorities =
    (List.range s.clipFrames.toNat).map fun g => (s.readByte (Window.seqMaj.base + g)).getLsbD 1 := by
  rw [seqRights, State.readMajorities, State.readBytes, List.map_map]
  rfl

theorem execStabilize_mem {s t : State} (h : exec .stabilize s = .next t) :
    t.mem = s.mem.write Window.seqStb.base (stabilizeEntries s.cfgWindow.toNat s.readMajorities) := by
  cases h
  rfl

/-- Settles O23: STABILIZE is one write of the stabilized entries, whose sides are the stabilized sides. -/
theorem stabilizeWritesSequences : Obligations.StabilizeWritesSequences := by
  refine ⟨by decide, fun s => ?_⟩
  obtain ⟨t, ht⟩ := exec_next .stabilize s
  refine ⟨t, ht, fun f hf => ?_, ?_, ?_⟩
  · have hlen : f < (stabilizeEntries s.cfgWindow.toNat s.readMajorities).length := by simpa using hf
    refine ⟨_, State.byteAt_of_mem_write (execStabilize_mem ht) hlen,
      mem_zipWith_seqEntry_lt (List.getElem_mem hlen), ?_, ?_⟩
    · rw [← seqLefts_readMajorities, ← seqLefts_stabilizeEntries, seqLefts, List.getElem?_map,
        List.getElem?_eq_getElem hlen, Option.map_some]
    · rw [← seqRights_readMajorities, ← seqRights_stabilizeEntries, seqRights, List.getElem?_map,
        List.getElem?_eq_getElem hlen, Option.map_some]
  · simpa using State.sameOutside_of_mem_write (execStabilize_mem ht)
  · cases ht
    rfl

end Sys2Proof.Machine

end

section
/-!
PROOFS. The delta-XOR and keyframe selector (41_select.md R160 to R166): the threshold in numbers, the XOR and
the payload of frames in memory byte by byte, and the one buffer write of SELECT and of XOR_APPLY.
-/

namespace Sys2Proof.Machine

/-! ### The threshold -/

/-- `4 * NZ > 3 * N`, with the numbers R162 gives. -/
theorem isKey_some_iff (p : Params) (cur prev : List Byte) :
    isKey p cur (some prev) = true ↔ 4 * nonzeroCount (xorFrame cur prev) > 3 * p.frameBytes :=
  decide_eq_true_iff

/-- Settles O24: all three forms are the comparison `4 * NZ > 3 * N` on naturals. -/
theorem keyframeThreshold : Obligations.KeyframeThreshold := by
  intro p cur prev
  have hkey := isKey_some_iff p cur prev
  refine ⟨rfl, hkey, hkey.trans ?_, fun hN => hkey.trans ?_⟩ <;> omega

/-! ### Frames in memory -/

theorem State.getElem_readFrame (s : State) (w : Window) (i : Nat) (h : i < (s.readFrame w).length) :
    (s.readFrame w)[i] = s.readByte (w.base + i) := s.getElem_readBytes ..

theorem State.getElem_xorFrame_readFrame (s : State) (v w : Window) (i : Nat)
    (h : i < (xorFrame (s.readFrame v) (s.readFrame w)).length) :
    (xorFrame (s.readFrame v) (s.readFrame w))[i] =
      xor8 (s.readByte (v.base + i)) (s.readByte (w.base + i)) := by
  rw [getElem_xorFrame, s.getElem_readFrame, s.getElem_readFrame]

theorem State.xorFrame_readFrame (s : State) (v w : Window) :
    xorFrame (s.readFrame v) (s.readFrame w) = (List.range s.cfg.frameBytes).map fun i =>
      xor8 (s.readByte (v.base + i)) (s.readByte (w.base + i)) := by
  apply List.ext_getElem
  · simp
  · intro i h _
    rw [s.getElem_xorFrame_readFrame v w i h, List.getElem_map, List.getElem_range]

theorem xor8_ne_zero_iff (a b : Byte) : xor8 a b ≠ 0 ↔ a ≠ b :=
  not_congr BitVec.xor_eq_zero_iff

/-- A byte of the XOR is nonzero where the frames differ (R161). -/
theorem State.nonzeroCount_xorFrame_readFrame (s : State) (v w : Window) :
    nonzeroCount (xorFrame (s.readFrame v) (s.readFrame w)) = (List.range s.cfg.frameBytes).countP fun i =>
      decide (s.readByte (v.base + i) ≠ s.readByte (w.base + i)) := by
  rw [s.xorFrame_readFrame, nonzeroCount, List.countP_map]
  simp only [Function.comp_def, xor8_ne_zero_iff]

/-! ### SELECT -/

theorem State.selectPrev_of_not_hasPrev {s : State} (h : s.selHasPrev = false) : s.selectPrev = none := by
  rw [State.selectPrev, h]
  rfl

theorem State.selectPrev_of_hasPrev {s : State} (h : s.selHasPrev = true) :
    s.selectPrev = some (s.readFrame .fbB) := by
  rw [State.selectPrev, if_pos h]

theorem State.length_payload_selectPrev (s : State) :
    (payload s.cfg (s.readFrame .fbA) s.selectPrev).length = s.cfg.frameBytes := by
  rw [length_payload, s.length_readFrame]
  intro q hq
  rw [State.length_selectPrev hq, s.length_readFrame]

/-- The payload takes each byte from FB_A under a key, else from the XOR of FB_A and FB_B (R163). -/
theorem State.getElem_payload_selectPrev (s : State) (i : Nat)
    (h : i < (payload s.cfg (s.readFrame .fbA) s.selectPrev).length) :
    (payload s.cfg (s.readFrame .fbA) s.selectPrev)[i] =
      if isKey s.cfg (s.readFrame .fbA) s.selectPrev = true then s.readByte (Window.fbA.base + i)
      else xor8 (s.readByte (Window.fbA.base + i)) (s.readByte (Window.fbB.base + i)) := by
  cases hp : s.selHasPrev with
  | false =>
    simp only [State.selectPrev_of_not_hasPrev hp, payload, isKey, if_true, s.getElem_readFrame]
  | true =>
    simp only [State.selectPrev_of_hasPrev hp, payload]
    split
    · exact s.getElem_readFrame ..
    · exact s.getElem_xorFrame_readFrame ..

theorem execSelect_mem {s t : State} (h : exec .select s = .next t) :
    t.mem = s.mem.write Window.fbC.base (payload s.cfg (s.readFrame .fbA) s.selectPrev) := by
  cases h
  rfl

theorem execSelect_key {s t : State} (h : exec .select s = .next t) :
    t.status.key = isKey s.cfg (s.readFrame .fbA) s.selectPrev := by
  cases h
  rfl

/-- A count of a frame's bytes fits NZ_COUNT (10_state.md R46). -/
theorem execSelect_nzCount {s t : State} (hp : s.cfg.wf = true) (h : exec .select s = .next t) :
    t.nzCount.toNat = selectCount (s.readFrame .fbA) s.selectPrev := by
  have hle := selectCount_le (s.readFrame .fbA) s.selectPrev
  have hN := Params.frameBytes_le hp
  rw [s.length_readFrame] at hle
  cases h
  exact Nat.mod_eq_of_lt (by omega)

/-- Settles O25: SELECT is one write of the payload, and a nonzero byte of the XOR is a differing byte. -/
theorem selectChoosesPayload : Obligations.SelectChoosesPayload := by
  refine ⟨by decide, fun s hp => ?_⟩
  obtain ⟨t, ht⟩ := exec_next .select s
  have hkey := execSelect_key ht
  have hnz := execSelect_nzCount hp ht
  refine ⟨t, ht, fun hno => ?_, fun hprev => ?_, fun i hi => ?_, ?_, ?_⟩
  · rw [State.selectPrev_of_not_hasPrev hno] at hkey hnz
    exact ⟨hkey, BitVec.eq_of_toNat_eq hnz⟩
  · rw [State.selectPrev_of_hasPrev hprev] at hkey hnz
    refine ⟨hnz.trans (s.nonzeroCount_xorFrame_readFrame .fbA .fbB), ?_⟩
    rw [hkey, Bool.eq_iff_iff, isKey_some_iff, hnz, decide_eq_true_eq]
    rfl
  · have hlen := s.length_payload_selectPrev.symm ▸ hi
    rw [State.byteAt_of_mem_write (execSelect_mem ht) hlen, s.getElem_payload_selectPrev, hkey]
  · rw [← s.length_payload_selectPrev]
    exact State.sameOutside_of_mem_write (execSelect_mem ht)
  · cases ht
    rfl

/-! ### XOR_APPLY -/

theorem execXorApply_mem {s t : State} (h : exec .xorApply s = .next t) :
    t.mem = s.mem.write Window.fbC.base (xorFrame (s.readFrame .fbC) (s.readFrame .fbB)) := by
  cases h
  rfl

theorem execXorApply_byteAt {s t : State} (h : exec .xorApply s = .next t) {i : Nat} (hi : i < s.cfg.frameBytes) :
    t.byteAt (Window.fbC.base + i) =
      some (xor8 (s.readByte (Window.fbC.base + i)) (s.readByte (Window.fbB.base + i))) := by
  have hlen : i < (xorFrame (s.readFrame .fbC) (s.readFrame .fbB)).length := by simpa using hi
  rw [State.byteAt_of_mem_write (execXorApply_mem h) hlen, s.getElem_xorFrame_readFrame]

theorem execXorApply_sameOutside {s t : State} (h : exec .xorApply s = .next t) :
    s.SameOutside t Window.fbC.base s.cfg.frameBytes := by
  simpa using State.sameOutside_of_mem_write (execXorApply_mem h)

/-- FB_B ends before FB_C begins (20_memory.md R70), so XOR_APPLY leaves it. -/
theorem execXorApply_byteAt_fbB {s t : State} (hp : s.cfg.wf = true) (h : exec .xorApply s = .next t) {i : Nat}
    (hi : i < s.cfg.frameBytes) : t.byteAt (Window.fbB.base + i) = s.byteAt (Window.fbB.base + i) := by
  have hN := Params.frameBytes_le hp
  refine execXorApply_sameOutside h _ ?_
  simp only [Window.base]
  omega

/-- Settles O26: XOR_APPLY is one write of the XOR, and the second one meets the FB_B bytes of the first. -/
theorem xorApplyIsSelfInverse : Obligations.XorApplyIsSelfInverse := by
  refine ⟨by decide, fun s hp => ?_⟩
  obtain ⟨t, ht⟩ := exec_next .xorApply s
  obtain ⟨u, hu⟩ := exec_next .xorApply t
  refine ⟨t, ht, fun i hi => execXorApply_byteAt ht hi, execXorApply_sameOutside ht, ?_,
    fun hB => ⟨u, hu, fun i hi => ?_⟩⟩
  · cases ht
    rfl
  · obtain ⟨b, hb⟩ := hB i hi
    have htb : t.byteAt (Window.fbB.base + i) = some b := (execXorApply_byteAt_fbB hp ht hi).trans hb
    rw [execXorApply_byteAt hu (exec_cfg ht ▸ hi), State.readByte_of_byteAt (execXorApply_byteAt ht hi),
      State.readByte_of_byteAt htb, State.readByte_of_byteAt hb, xor8_xor8]

end Sys2Proof.Machine

end

section
/-!
PROOFS. The run-length codec (42_rle.md R180 to R188): the arithmetic of legal run-lists, the encoder as the one
canonical run-list of a payload, the decoder past a legal run-list, and the commands RLE_ENC and RLE_DEC.
-/

namespace Sys2Proof.Machine

/-! ### Run-lists -/

theorem legalRuns_cons (r : Nat × Byte) (rs : List (Nat × Byte)) :
    legalRuns (r :: rs) ↔ (1 ≤ r.1 ∧ r.1 ≤ 255) ∧ legalRuns rs := List.forall_mem_cons

theorem length_expandRuns (rs : List (Nat × Byte)) : (expandRuns rs).length = runTotal rs := by
  induction rs with
  | nil => rfl
  | cons r rs ih => simp [expandRuns, runTotal, ih]

theorem length_le_runTotal {rs : List (Nat × Byte)} (h : legalRuns rs) : rs.length ≤ runTotal rs := by
  induction rs with
  | nil => exact Nat.zero_le _
  | cons r rs ih =>
    obtain ⟨⟨hpos, -⟩, hrs⟩ := (legalRuns_cons r rs).1 h
    have := ih hrs
    simp only [List.length_cons, runTotal]
    omega

theorem runTotal_le {rs : List (Nat × Byte)} (h : legalRuns rs) : runTotal rs ≤ 255 * rs.length := by
  induction rs with
  | nil => exact Nat.zero_le _
  | cons r rs ih =>
    obtain ⟨⟨-, hmax⟩, hrs⟩ := (legalRuns_cons r rs).1 h
    have := ih hrs
    simp only [List.length_cons, runTotal]
    omega

/-! ### The runs of a payload -/

theorem runsFrom_head (v : Byte) (c : Nat) (p : List Byte) : ∃ n rs, runsFrom v c p = (n, v) :: rs := by
  fun_induction runsFrom v c p with
  | case1 v c => exact ⟨c, [], rfl⟩
  | case2 v c b rest h ih => exact ih
  | case3 v c b rest h ih => exact ⟨c, _, rfl⟩

theorem legalRuns_runsFrom (v : Byte) {c : Nat} (hc : 1 ≤ c ∧ c ≤ 255) (p : List Byte) :
    legalRuns (runsFrom v c p) := by
  fun_induction runsFrom v c p with
  | case1 v c => exact List.forall_mem_singleton.2 hc
  | case2 v c b rest h ih =>
    obtain ⟨-, hlt⟩ := h
    exact ih ⟨by omega, hlt⟩
  | case3 v c b rest h ih => exact (legalRuns_cons ..).2 ⟨hc, ih (by decide)⟩

theorem expandRuns_runsFrom (v : Byte) (c : Nat) (p : List Byte) :
    expandRuns (runsFrom v c p) = List.replicate c v ++ p := by
  fun_induction runsFrom v c p with
  | case1 v c => rfl
  | case2 v c b rest h ih =>
    obtain ⟨rfl, -⟩ := h
    rw [ih, List.replicate_succ', List.append_assoc, List.singleton_append]
  | case3 v c b rest h ih => rw [expandRuns, ih, List.replicate_one, List.singleton_append]

theorem canonicalRuns_runsFrom (v : Byte) {c : Nat} (hc : c ≤ 255) (p : List Byte) :
    canonicalRuns (runsFrom v c p) := by
  fun_induction runsFrom v c p with
  | case1 v c => trivial
  | case2 v c b rest h ih => exact ih h.2
  | case3 v c b rest h ih =>
    obtain ⟨n, rs, hrs⟩ := runsFrom_head b 1 rest
    rw [hrs] at ih ⊢
    refine ⟨fun hv => ?_, ih (by decide)⟩
    have hfull : ¬ c < 255 := fun hlt => h ⟨hv.symm, hlt⟩
    exact Nat.le_antisymm hc (Nat.le_of_not_lt hfull)

theorem legalRuns_runs (p : List Byte) : legalRuns (runs p) := by
  cases p with
  | nil => exact List.forall_mem_nil _
  | cons b rest => exact legalRuns_runsFrom b (by decide) rest

theorem expandRuns_runs (p : List Byte) : expandRuns (runs p) = p := by
  cases p with
  | nil => rfl
  | cons b rest => exact expandRuns_runsFrom b 1 rest

theorem canonicalRuns_runs (p : List Byte) : canonicalRuns (runs p) := by
  cases p with
  | nil => trivial
  | cons b rest => exact canonicalRuns_runsFrom b (by decide) rest

theorem runTotal_runs (p : List Byte) : runTotal (runs p) = p.length := by
  rw [← length_expandRuns, expandRuns_runs]

/-- Settles O27: the runs of the payload are legal, canonical and expand to it, and a legal run-list of total n has
between ceil(n/255) and n pairs. -/
theorem rleEncodeGivesCanonicalRuns : Obligations.RleEncodeGivesCanonicalRuns := by
  intro p _
  have hmin := runTotal_le (legalRuns_runs p)
  have hmax := length_le_runTotal (legalRuns_runs p)
  rw [runTotal_runs] at hmin hmax
  exact ⟨runs p, rfl, legalRuns_runs p, expandRuns_runs p, runTotal_runs p, canonicalRuns_runs p, by omega, hmax⟩

/-! ### Canonical run-lists -/

theorem runsFrom_replicate_append (v : Byte) {c d : Nat} (h : c + d ≤ 255) (p : List Byte) :
    runsFrom v c (List.replicate d v ++ p) = runsFrom v (c + d) p := by
  induction d generalizing c with
  | zero => rfl
  | succ d ih =>
    rw [List.replicate_succ, List.cons_append, runsFrom_extend _ rfl (by omega), ih (by omega)]
    congr 1
    omega

/-- A payload that begins with a run of legal length opens that run. -/
theorem runs_replicate_append (v : Byte) {c : Nat} (h : 1 ≤ c ∧ c ≤ 255) (p : List Byte) :
    runs (List.replicate c v ++ p) = runsFrom v c p := by
  obtain ⟨d, rfl⟩ := Nat.exists_eq_add_of_le h.1
  rw [Nat.add_comm 1 d, List.replicate_succ, Nat.add_comm d 1]
  exact runsFrom_replicate_append v h.2 p

/-- A byte of another value, or any byte once the count is at its cap, closes the open run (R181). -/
theorem runsFrom_eq_cons_runs {v : Byte} {c : Nat} {p : List Byte} (h : p.head? = some v → c = 255) :
    runsFrom v c p = (c, v) :: runs p := by
  cases p with
  | nil => rfl
  | cons b rest =>
    refine runsFrom_close rest (Classical.or_iff_not_imp_left.2 fun hb => ?_)
    exact (h (congrArg some (not_not.1 hb))).ge

theorem head?_expandRuns_cons {r : Nat × Byte} (h : 1 ≤ r.1) (rs : List (Nat × Byte)) :
    (expandRuns (r :: rs)).head? = some r.2 := by
  rw [expandRuns, List.head?_append, List.head?_replicate, if_neg (by omega), Option.some_or]

theorem runs_expandRuns {rs : List (Nat × Byte)} (hl : legalRuns rs) (hc : canonicalRuns rs) :
    runs (expandRuns rs) = rs := by
  fun_induction canonicalRuns rs with
  | case1 => rfl
  | case2 r =>
    rw [expandRuns, runs_replicate_append _ (hl r (List.mem_singleton_self r))]
    rfl
  | case3 r q rs ih =>
    obtain ⟨hr, hrest⟩ := (legalRuns_cons ..).1 hl
    obtain ⟨hadj, hcrest⟩ := hc
    obtain ⟨hq, -⟩ := (legalRuns_cons ..).1 hrest
    rw [expandRuns, runs_replicate_append _ hr, runsFrom_eq_cons_runs fun hhead => ?_, ih hrest hcrest]
    rw [head?_expandRuns_cons hq.1] at hhead
    exact hadj (Option.some.inj hhead).symm

/-- Settles O28: the greedy encoder reopens exactly the runs of a canonical run-list. -/
theorem encodingIsTheCanonicalRunList : Obligations.EncodingIsTheCanonicalRunList := by
  intro rs hl hc
  rw [rleEncode, runs_expandRuns hl hc]

/-! ### The decoder past a legal run-list -/

/-- The answer once the pairs of a whole run-list in front of it have been read: `RleRead.after` for each. -/
def RleRead.afterRuns (rs : List (Nat × Byte)) (r : RleRead) : RleRead where
  result :=
    match r.result with
    | .ok out => .ok (expandRuns rs ++ out)
    | .err k => .err k
  used := 2 * rs.length + r.used

theorem RleRead.afterRuns_nil (r : RleRead) : r.afterRuns [] = r := by
  rcases r with ⟨out | k, u⟩ <;> simp [afterRuns, expandRuns]

theorem RleRead.after_afterRuns (c : Nat) (v : Byte) (rs : List (Nat × Byte)) (r : RleRead) :
    (r.afterRuns rs).after (List.replicate c v) = r.afterRuns ((c, v) :: rs) := by
  rcases r with ⟨out | k, u⟩ <;> simp [afterRuns, after, expandRuns] <;> omega

/-- Pairs of counts 1 to 255 that fit what is needed are read one by one, and decoding goes on behind them. -/
theorem rleDecode_serialiseRuns_append (zr : ZeroRun) {rs : List (Nat × Byte)} {need : Nat} (hl : legalRuns rs)
    (hn : runTotal rs ≤ need) (rest : List Byte) :
    rleDecode zr need (serialiseRuns rs ++ rest) = (rleDecode zr (need - runTotal rs) rest).afterRuns rs := by
  induction rs generalizing need with
  | nil => exact (RleRead.afterRuns_nil _).symm
  | cons r rs ih =>
    obtain ⟨c, v⟩ := r
    obtain ⟨⟨hpos, hmax⟩, hrs⟩ := (legalRuns_cons ..).1 hl
    rw [runTotal] at hn
    have hc : (BitVec.ofNat 8 c).toNat = c := Nat.mod_eq_of_lt (by omega)
    rw [serialiseRuns_cons, List.cons_append, List.cons_append, rleDecode_run zr _ (by omega) (by omega), hc,
      ih hrs (by omega), RleRead.after_afterRuns, runTotal, Nat.sub_sub]

/-- Settles O30: behind the run-list nothing is needed any more. -/
theorem rleDecodeAcceptsAnyRunList : Obligations.RleDecodeAcceptsAnyRunList := by
  intro zr rs rest hl
  rw [rleDecode_serialiseRuns_append zr hl le_rfl, Nat.sub_self, rleDecode_done]
  simp [RleRead.afterRuns]

/-- Settles O29: an encoding is a legal run-list of the payload's size, which O30 decodes. -/
theorem rleRoundTrip : Obligations.RleRoundTrip := by
  intro zr p rest
  have h := rleDecodeAcceptsAnyRunList zr (runs p) rest (legalRuns_runs p)
  rwa [runTotal_runs, expandRuns_runs, ← length_serialiseRuns] at h

/-- Settles O31: behind the pairs something is still needed, and each clause is one turn of RleDecode. -/
theorem rleDecodeErrors : Obligations.RleDecodeErrors := by
  intro zr rs need hl hn
  have past := rleDecode_serialiseRuns_append zr hl hn.le
  have hpos : 0 < need - runTotal rs := Nat.sub_pos_of_lt hn
  refine ⟨?_, fun c => ?_, fun c v rest hc => ?_, fun v rest hz => ?_, fun v rest hz => ?_⟩
  · have h := past []
    rw [rleDecode_empty zr hpos, List.append_nil] at h
    exact h
  · rw [past, rleDecode_lone zr hpos]
    rfl
  · rw [past, rleDecode_overflow zr rest hpos hc]
    rfl
  · subst hz
    rw [past, rleDecode_zero_reject v rest hpos]
    rfl
  · subst hz
    rw [past, past, rleDecode_zero_accept v rest hpos]
    rcases rleDecode .accept (need - runTotal rs) rest with ⟨out | k, u⟩ <;> rfl

/-! ### RLE_ENC and RLE_DEC -/

theorem execRleEnc_mem {s t : State} (h : exec .rleEnc s = .next t) :
    t.mem = s.mem.write Window.runbuf.base (rleEncode (s.readFrame .fbC)) := by
  cases h
  rfl

theorem length_rleEncode_readFrame_le (s : State) (w : Window) :
    (rleEncode (s.readFrame w)).length ≤ 2 * s.cfg.frameBytes := by
  simpa using length_rleEncode_le (s.readFrame w)

/-- A run-list of at most 2N bytes fits RUN_LEN (10_state.md R43). -/
theorem execRleEnc_runLen {s t : State} (hp : s.cfg.wf = true) (h : exec .rleEnc s = .next t) :
    t.runLen.toNat = (rleEncode (s.readFrame .fbC)).length := by
  have hle := length_rleEncode_readFrame_le s .fbC
  have hN := Params.frameBytes_le hp
  cases h
  exact Nat.mod_eq_of_lt (by omega)

/-- Settles O32: RLE_ENC is one write of the encoding at the start of RUNBUF, of at most 2N bytes. -/
theorem rleEncWritesRunList : Obligations.RleEncWritesRunList := by
  refine ⟨by decide, fun s hp => ?_⟩
  obtain ⟨t, ht⟩ := exec_next .rleEnc s
  have hlen := execRleEnc_runLen hp ht
  refine ⟨t, ht, fun i hi => State.byteAt_of_mem_write (execRleEnc_mem ht) hi, hlen, ?_, ?_, ?_⟩
  · exact hlen.trans_le (length_rleEncode_readFrame_le s .fbC)
  · rw [hlen]
    exact State.sameOutside_of_mem_write (execRleEnc_mem ht)
  · cases ht
    rfl

/-- RUN_POS is at most RUN_LEN, so it fits its register (10_state.md R44). -/
theorem execRleDec_runPos {s t : State} (h : exec .rleDec s = .next t) :
    t.runPos.toNat = (rleDecode s.cfg.zeroRun s.cfg.frameBytes s.readRunList).used := by
  have hle := rleDecode_used_le s.cfg.zeroRun s.cfg.frameBytes s.readRunList
  rw [s.length_readRunList] at hle
  cases h
  rcases (rleDecode s.cfg.zeroRun s.frameSize s.readRunList).result with out | k <;>
    exact Nat.mod_eq_of_lt (hle.trans_lt s.runLen.isLt)

theorem execRleDec_ok {s t : State} (h : exec .rleDec s = .next t) {out : List Byte}
    (hr : (rleDecode s.cfg.zeroRun s.cfg.frameBytes s.readRunList).result = .ok out) :
    t.mem = s.mem.write Window.fbC.base out ∧ t.status = { s.status.completed true with rleErr := none } := by
  rw [exec, execRleDec, State.frameSize, hr] at h
  cases h
  exact ⟨rfl, rfl⟩

theorem execRleDec_err {s t : State} (h : exec .rleDec s = .next t) {k : FailKind}
    (hr : (rleDecode s.cfg.zeroRun s.cfg.frameBytes s.readRunList).result = .err k) :
    t.mem = s.mem ∧ t.status = { s.status.completed false with rleErr := some k } := by
  rw [exec, execRleDec, State.frameSize, hr] at h
  cases h
  exact ⟨rfl, rfl⟩

theorem execRleDec_frame {s t : State} (h : exec .rleDec s = .next t) :
    t = { s with mem := t.mem, runPos := t.runPos, status := t.status, draws := t.draws } := by
  cases h
  rcases (rleDecode s.cfg.zeroRun s.frameSize s.readRunList).result with out | k <;> rfl

/-- Settles O33: RLE_DEC is one write of the decoded frame on success and no write on an error. -/
theorem rleDecDelivers : Obligations.RleDecDelivers := by
  refine ⟨by decide, fun s r hr => ?_⟩
  obtain rfl : r = rleDecode s.cfg.zeroRun s.cfg.frameBytes s.readRunList := hr
  obtain ⟨t, ht⟩ := exec_next .rleDec s
  refine ⟨t, ht, execRleDec_runPos ht, ?_, fun out hok => ?_, fun k herr => execRleDec_err ht herr,
    execRleDec_frame ht⟩
  · simpa using rleDecode_used_le s.cfg.zeroRun s.cfg.frameBytes s.readRunList
  · obtain ⟨hmem, hstatus⟩ := execRleDec_ok ht hok
    have hlen := rleDecode_length hok
    refine ⟨hlen, fun i hi => State.byteAt_of_mem_write hmem hi, ?_, hstatus⟩
    rw [← hlen]
    exact State.sameOutside_of_mem_write hmem

end Sys2Proof.Machine

end

section
/-!
PROOFS. The checksum (43_crc.md R210 to R216): each step of the register is linear over GF(2) and loses nothing, so
the checksum is affine and a change confined to one byte reaches it; and the commands CRC_GEN and CRC_CHECK.
-/

namespace Sys2Proof.Machine

/-! ### Linearity -/

theorem crcShift_xor (x y : Half) : crcShift (x ^^^ y) = crcShift x ^^^ crcShift y := by
  simp only [crcShift, BitVec.getLsbD_xor, BitVec.shiftLeft_xor_distrib]
  cases x.getLsbD 15 <;> cases y.getLsbD 15
  case false.false => rfl
  case false.true => exact BitVec.xor_assoc ..
  case true.false =>
    show x <<< 1 ^^^ y <<< 1 ^^^ Config.crcPoly = (x <<< 1 ^^^ Config.crcPoly) ^^^ y <<< 1
    ac_rfl
  case true.true =>
    calc x <<< 1 ^^^ y <<< 1
      _ = x <<< 1 ^^^ y <<< 1 ^^^ (Config.crcPoly ^^^ Config.crcPoly) := by simp
      _ = (x <<< 1 ^^^ Config.crcPoly) ^^^ (y <<< 1 ^^^ Config.crcPoly) := by ac_rfl

theorem crcShifts_xor (n : Nat) (x y : Half) : crcShifts n (x ^^^ y) = crcShifts n x ^^^ crcShifts n y := by
  induction n generalizing x y with
  | zero => rfl
  | succ n ih => rw [crcShifts_succ, crcShift_xor, ih, crcShifts_succ, crcShifts_succ]

theorem crcByte_xor (x y : Half) (a b : Byte) : crcByte (x ^^^ y) (xor8 a b) = crcByte x a ^^^ crcByte y b := by
  rw [crcByte, crcByte, crcByte, ← crcShifts_xor, xor8, BitVec.setWidth_xor, BitVec.shiftLeft_xor_distrib]
  ac_rfl

theorem crcByte_foldl_xorFrame {a e : List Byte} (h : a.length = e.length) (x y : Half) :
    (xorFrame a e).foldl crcByte (x ^^^ y) = a.foldl crcByte x ^^^ e.foldl crcByte y := by
  induction a generalizing e x y with
  | nil =>
    obtain rfl : e = [] := List.length_eq_zero_iff.1 h.symm
    rfl
  | cons b a ih =>
    obtain _ | ⟨f, e⟩ := e
    · cases h
    · calc (xorFrame (b :: a) (f :: e)).foldl crcByte (x ^^^ y)
        _ = (xorFrame a e).foldl crcByte (crcByte (x ^^^ y) (xor8 b f)) := rfl
        _ = (xorFrame a e).foldl crcByte (crcByte x b ^^^ crcByte y f) := by rw [crcByte_xor]
        _ = _ := ih (Nat.succ.inj h) _ _

/-- Settles O35: the checksum's seed is itself xored with the seed 0. -/
theorem crcIsAffine : Obligations.CrcIsAffine := fun _ _ h => crcByte_foldl_xorFrame h Config.crcSeed 0

/-! ### No step loses information -/

/-- The polynomial is odd, so bit 0 of a shifted register tells whether bit 15 was shifted out. -/
theorem getLsbD_zero_crcShift (x : Half) : (crcShift x).getLsbD 0 = x.getLsbD 15 := by
  have hodd : Config.crcPoly.getLsbD 0 = true := by decide
  rw [crcShift]
  split
  case isTrue h => rw [BitVec.getLsbD_xor, hodd, h, BitVec.getLsbD_shiftLeft]; rfl
  case isFalse h => rw [Bool.eq_false_of_not_eq_true h, BitVec.getLsbD_shiftLeft]; rfl

/-- A register is its bit 15 and what a left shift leaves of it. -/
theorem half_ext_shiftLeft {x y : Half} (htop : x.getLsbD 15 = y.getLsbD 15) (hshift : x <<< 1 = y <<< 1) :
    x = y := by
  refine BitVec.eq_of_getElem_eq fun i hi => ?_
  obtain rfl | hlt : i = 15 ∨ i + 1 < 16 := by omega
  · exact htop
  · have hbit := congrArg (BitVec.getLsbD · (i + 1)) hshift
    simpa [hlt] using hbit

theorem crcShift_injective : Function.Injective crcShift := by
  intro x y h
  have htop : x.getLsbD 15 = y.getLsbD 15 := by
    rw [← getLsbD_zero_crcShift, h, getLsbD_zero_crcShift]
  refine half_ext_shiftLeft htop ?_
  rw [crcShift, crcShift, htop] at h
  split at h
  · exact (BitVec.xor_left_inj _).1 h
  · exact h

theorem crcShifts_injective (n : Nat) : Function.Injective (crcShifts n) := by
  induction n with
  | zero => exact Function.injective_id
  | succ n ih => exact ih.comp crcShift_injective

theorem crcByte_left_injective (b : Byte) : Function.Injective (crcByte · b) :=
  fun _ _ h => (BitVec.xor_left_inj _).1 (crcShifts_injective 8 h)

theorem crcByte_right_injective (c : Half) : Function.Injective (crcByte c) := by
  intro a b h
  have hhigh : a.setWidth 16 <<< 8 = (b.setWidth 16 <<< 8 : Half) :=
    (BitVec.xor_right_inj c).1 (crcShifts_injective 8 h)
  bv_omega

theorem crcByte_foldl_injective (d : List Byte) : Function.Injective (fun c => d.foldl crcByte c) := by
  induction d with
  | nil => exact Function.injective_id
  | cons b d ih => exact ih.comp (crcByte_left_injective b)

theorem crc16_append_cons_inj (d d' : List Byte) (a b : Byte) :
    crc16 (d ++ a :: d') = crc16 (d ++ b :: d') ↔ a = b := by
  refine ⟨fun h => ?_, fun h => h ▸ rfl⟩
  rw [crc16, crc16, List.foldl_append, List.foldl_append] at h
  exact crcByte_right_injective _ (crcByte_foldl_injective d' h)

/-- Settles O34: the register differs after the changed byte, and so after every byte that follows. -/
theorem crcDetectsOneChangedByte : Obligations.CrcDetectsOneChangedByte := by
  intro d i h e he hcrc
  have hd : d = d.take i ++ d[i] :: d.drop (i + 1) := by
    rw [List.getElem_cons_drop, List.take_append_drop]
  rw [List.set_eq_take_append_cons_drop, if_pos h] at hcrc
  have hbyte := (crc16_append_cons_inj ..).1 (hcrc.trans (congrArg crc16 hd))
  exact he ((BitVec.xor_right_inj d[i]).1 (hbyte.trans BitVec.xor_zero.symm))

/-! ### The recurrence and its check values -/

theorem crcShifts_length {α : Type} (l : List α) (c : Half) :
    crcShifts l.length c = l.foldl (fun x _ => crcShift x) c := by
  induction l generalizing c with
  | nil => rfl
  | cons _ l ih => exact ih (crcShift c)

theorem crcByte_eq_foldl (c : Half) (b : Byte) :
    crcByte c b = (List.range 8).foldl (fun x _ => crcShift x) (c ^^^ (b.setWidth 16 <<< 8)) :=
  crcShifts_length (List.range 8) _

/-- The register after the bytes `d`, as a number that each byte matches on: the kernel then evaluates it at every
byte and carries no term that grows with `d`. -/
def crcEval : (d : List Byte) → Nat → Nat
  | [], n => n
  | b :: d, 0 => crcEval d (crcByte 0 b).toNat
  | b :: d, n + 1 => crcEval d (crcByte (BitVec.ofNat 16 (n + 1)) b).toNat

theorem crcEval_toNat (d : List Byte) (c : Half) : crcEval d c.toNat = (d.foldl crcByte c).toNat := by
  induction d generalizing c with
  | nil => rfl
  | cons b d ih =>
    rw [List.foldl_cons, ← ih]
    rcases h : c.toNat with _ | n
    · rw [BitVec.eq_of_toNat_eq (y := 0) h, crcEval]
    · rw [crcEval, ← h, BitVec.ofNat_toNat, BitVec.setWidth_eq]

theorem crc16_eq_iff (d : List Byte) (c : Half) : crc16 d = c ↔ crcEval d 0xFFFF = c.toNat := by
  rw [BitVec.toNat_eq, crc16, ← crcEval_toNat]
  rfl

theorem crc16_digits : crc16 [0x31, 0x32, 0x33, 0x34, 0x35, 0x36, 0x37, 0x38, 0x39] = 0x29B1 := by
  rw [crc16_eq_iff]
  decide +kernel

theorem crc16_zeros640 : crc16 (List.replicate 640 0) = 0xD811 := by
  rw [crc16_eq_iff]
  decide +kernel

/-! ### CRC_GEN and CRC_CHECK -/

theorem execCrcCheck_crcMatch {s t : State} (h : exec .crcCheck s = .next t) :
    t.status.crcMatch = decide (t.crcResult = s.crcExpect) := by
  cases h
  rfl

/-- Settles O36: a byte's 8 shifts are a fold over 8 turns, and each command is one write of CRC_RESULT and STATUS. -/
theorem crcCommandsWriteResult : Obligations.CrcCommandsWriteResult := by
  refine ⟨fun d => ?_, crc16_digits, crc16_zeros640, by decide, by decide, fun s => ⟨?_, ?_⟩⟩
  · exact List.foldl_ext _ _ _ fun c b _ => crcByte_eq_foldl c b
  · obtain ⟨t, ht⟩ := exec_next .crcGen s
    refine ⟨t, ht, ?_⟩
    cases ht
    rfl
  · obtain ⟨t, ht⟩ := exec_next .crcCheck s
    have hmatch := execCrcCheck_crcMatch ht
    refine ⟨t, ht, ?_, ?_, ?_, ?_⟩
    · cases ht
      rfl
    · rw [hmatch, decide_eq_true_eq]
    · cases ht
      rfl
    · cases ht
      rfl

end Sys2Proof.Machine

end

section
/-!
PROOFS. The framer and the whole-clip encoder (44_framer.md R230 to R235): the parts of a record, the stream of a
clip as the list of its records, and the commands FRAME_EMIT and ENC_CLIP.
-/

namespace Sys2Proof.Machine

/-! ### The parts of a record -/

theorem headerByte_lt (l r k : Bool) : (headerByte l r k).toNat < 8 := by
  cases l <;> cases r <;> cases k <;> decide

/-- The trailer in numbers: the low byte, then the high byte. -/
theorem crcBytes_eq (c : Half) :
    crcBytes c = [BitVec.ofNat 8 (c.toNat % 256), BitVec.ofNat 8 (c.toNat / 256)] := by
  have hlow : BitVec.ofNat 8 (c.toNat % 256) = BitVec.ofNat 8 c.toNat :=
    BitVec.eq_of_toNat_eq (Nat.mod_mod _ _)
  rw [crcBytes, hlow, BitVec.extractLsb', BitVec.extractLsb', Nat.shiftRight_zero, Nat.shiftRight_eq_div_pow]

theorem payload_of_isKey {p : Params} {cur : List Byte} {prev : Option (List Byte)}
    (h : isKey p cur prev = true) : payload p cur prev = cur := by
  cases prev with
  | none => rfl
  | some q => exact if_pos h

theorem payload_of_not_isKey {p : Params} {cur q : List Byte} (h : isKey p cur (some q) = false) :
    payload p cur (some q) = xorFrame cur q :=
  if_neg (Bool.not_eq_true _ ▸ h)

/-! ### The stream of a clip -/

/-- The records of a list of inverted frames: frame f's previous frame is entry f of `prev` followed by the
frames themselves. -/
def frameRecords (p : Params) (prev : Option (List Byte)) (invs : List (List Byte)) (sL sR : List Bool) :
    List (List Byte) :=
  List.zipWith (fun q b => encodeFrame p q.1 q.2 b.1 b.2) (List.zip (prev :: invs.map some) invs) (List.zip sL sR)

/-- The loop of Encode writes these records one after the other. -/
theorem encodeRecords_eq_flatten (p : Params) (prev : Option (List Byte)) (invs : List (List Byte))
    (sL sR : List Bool) : encodeRecords p prev invs sL sR = (frameRecords p prev invs sL sR).flatten := by
  fun_induction encodeRecords p prev invs sL sR with
  | case1 prev cur invs l sL r sR ih => rw [ih]; rfl
  | case2 prev sL sR => rfl
  | case3 prev cur invs sR => rfl
  | case4 prev cur invs l sL => rfl

/-- The inverted frame before frame f of a clip; none before frame 0 (41_select.md R164). -/
def clipPrev (clip : List (List Byte)) : (f : Nat) → Option (List Byte)
  | 0 => none
  | g + 1 => clip[g]?.map invertFrame

/-- The records of a clip. -/
def clipRecords (p : Params) (clip : List (List Byte)) (wn : Nat) : List (List Byte) :=
  frameRecords p none (clip.map invertFrame) (encodeClip p clip wn).sL (encodeClip p clip wn).sR

theorem encodeClip_out (p : Params) (clip : List (List Byte)) (wn : Nat) :
    (encodeClip p clip wn).out = (clipRecords p clip wn).flatten := encodeRecords_eq_flatten ..

@[simp] theorem length_encodeClip_mL (p : Params) (clip : List (List Byte)) (wn : Nat) :
    (encodeClip p clip wn).mL.length = clip.length := by simp [encodeClip]

@[simp] theorem length_encodeClip_mR (p : Params) (clip : List (List Byte)) (wn : Nat) :
    (encodeClip p clip wn).mR.length = clip.length := by simp [encodeClip]

@[simp] theorem length_encodeClip_sL (p : Params) (clip : List (List Byte)) (wn : Nat) :
    (encodeClip p clip wn).sL.length = clip.length := by simp [encodeClip]

@[simp] theorem length_encodeClip_sR (p : Params) (clip : List (List Byte)) (wn : Nat) :
    (encodeClip p clip wn).sR.length = clip.length := by simp [encodeClip]

theorem getElem_encodeClip_mL (p : Params) (clip : List (List Byte)) (wn f : Nat)
    (h : f < (encodeClip p clip wn).mL.length) : (encodeClip p clip wn).mL[f] =
      majority p (whiteLeft p (invertFrame (clip[f]'(by simpa using h)))) := by simp [encodeClip]

theorem getElem_encodeClip_mR (p : Params) (clip : List (List Byte)) (wn f : Nat)
    (h : f < (encodeClip p clip wn).mR.length) : (encodeClip p clip wn).mR[f] =
      majority p (whiteRight p (invertFrame (clip[f]'(by simpa using h)))) := by simp [encodeClip]

@[simp] theorem length_clipRecords (p : Params) (clip : List (List Byte)) (wn : Nat) :
    (clipRecords p clip wn).length = clip.length := by simp [clipRecords, frameRecords]

theorem clipPrev_succ (clip : List (List Byte)) {g : Nat} (h : g < clip.length) :
    clipPrev clip (g + 1) = some (invertFrame clip[g]) := by
  rw [clipPrev, List.getElem?_eq_getElem h, Option.map_some]

/-- Record f of a clip: that of its inverted frame f against the inverted frame before it. -/
theorem getElem_clipRecords (p : Params) (clip : List (List Byte)) (wn : Nat) {f : Nat} (h : f < clip.length) :
    (clipRecords p clip wn)[f]'(by simpa using h) = encodeFrame p (clipPrev clip f) (invertFrame clip[f])
      ((encodeClip p clip wn).sL[f]'(by simpa using h)) ((encodeClip p clip wn).sR[f]'(by simpa using h)) := by
  cases f with
  | zero => simp [clipRecords, frameRecords, clipPrev]
  | succ g => simp [clipRecords, frameRecords, clipPrev_succ clip (Nat.lt_of_succ_lt h)]

/-- Settles O38: record f is that of `encodeFrame`, whose header holds the keyframe decision and whose payload
follows it. -/
theorem encodedStreamIsRecords : Obligations.EncodedStreamIsRecords := by
  intro p clip wn
  refine ⟨by simp [encodeClip, invertFrame], by simp [encodeClip, invertFrame], rfl, rfl,
    clipRecords p clip wn, encodeClip_out p clip wn, length_clipRecords p clip wn, fun f h => ?_⟩
  have hL : f < (encodeClip p clip wn).sL.length := by simpa using h
  have hR : f < (encodeClip p clip wn).sR.length := by simpa using h
  refine ⟨headerByte (encodeClip p clip wn).sL[f] (encodeClip p clip wn).sR[f]
      (isKey p (invertFrame clip[f]) (clipPrev clip f)), isKey p (invertFrame clip[f]) (clipPrev clip f),
    payload p (invertFrame clip[f]) (clipPrev clip f), ?_, headerByte_lt .., headerByte_key .., ?_, ?_, ?_, ?_,
    payload_of_isKey⟩
  · rw [List.getElem?_eq_getElem (by simpa using h), getElem_clipRecords p clip wn h, encodeFrame, recordBytes,
      crcBytes_eq]
    rfl
  · rw [headerByte_left, List.getElem?_eq_getElem hL]
  · rw [headerByte_right, List.getElem?_eq_getElem hR]
  · rintro rfl
    rfl
  · rintro g hg rfl
    rw [clipPrev_succ clip hg]
    exact ⟨isKey_some_iff .., payload_of_not_isKey⟩

/-! ### FRAME_EMIT and ENC_CLIP -/

theorem execFrameEmit_outBytes {s t : State} (h : exec .frameEmit s = .next t) :
    t.outBytes = s.outBytes ++ recordBytes s.hdrArg s.readRunList s.crcResult := by
  cases h
  rfl

/-- Settles O37: one record appended, its trailer in numbers. -/
theorem frameEmitAppendsRecord : Obligations.FrameEmitAppendsRecord := by
  refine ⟨by decide, fun s => ?_⟩
  obtain ⟨t, ht⟩ := exec_next .frameEmit s
  refine ⟨t, ht, ?_, ?_, ?_⟩
  · rw [execFrameEmit_outBytes ht, recordBytes, crcBytes_eq]
    simp [State.readRunList, State.readBytes]
  · cases ht
    show (s.encBytes + s.runLen + 3).toNat = _
    bv_omega
  · cases ht
    rfl

/-- What ENC_CLIP encodes: the clip in CLIP_MEM under the window of CFG_WINDOW. -/
abbrev State.encodedClip (s : State) : Encoded := encodeClip s.cfg s.readClip s.cfgWindow.toNat

theorem execEncClip_outBytes {s t : State} (h : exec .encClip s = .next t) :
    t.outBytes = s.outBytes ++ s.encodedClip.out := by
  cases h
  rfl

theorem execEncClip_encBytes {s t : State} (h : exec .encClip s = .next t) :
    t.encBytes = BitVec.ofNat 32 s.encodedClip.out.length := by
  cases h
  rfl

theorem execEncClip_frame {s t : State} (h : exec .encClip s = .next t) :
    t = { s with
      outBytes := t.outBytes, encBytes := t.encBytes, mem := t.mem
      status := s.status.completed true
      draws := t.draws } := by
  cases h
  simp only [State.complete, State.nextDraw, State.writeWindow, State.writeBytes, State.outWrite, Status.completed]

theorem execEncClip_mem {s t : State} (h : exec .encClip s = .next t) :
    t.mem = (s.mem.write Window.seqMaj.base (List.zipWith seqEntry s.encodedClip.mL s.encodedClip.mR)).write
      Window.seqStb.base (List.zipWith seqEntry s.encodedClip.sL s.encodedClip.sR) := by
  cases h
  rfl

/-- SEQ_MAJ ends before SEQ_STB begins (20_memory.md R70), so the entries written there first stay. -/
theorem execEncClip_byteAt_seqMaj {s t : State} (hF : s.clipFrames.toNat ≤ 65536)
    (h : exec .encClip s = .next t) {f : Nat} (hf : f < s.readClip.length) :
    t.byteAt (Window.seqMaj.base + f) = some (seqEntry
      (s.encodedClip.mL[f]'(by simpa using hf))
      (s.encodedClip.mR[f]'(by simpa using hf))) := by
  rw [s.length_readClip] at hf
  rw [State.byteAt_def, execEncClip_mem h, Memory.get?_write_of_not_mem, Memory.get?_write_add,
    List.getElem_zipWith]
  · simpa using hf
  · simp only [Window.base]
    omega

theorem execEncClip_byteAt_seqStb {s t : State} (h : exec .encClip s = .next t) {f : Nat}
    (hf : f < s.readClip.length) :
    t.byteAt (Window.seqStb.base + f) = some (seqEntry
      (s.encodedClip.sL[f]'(by simpa using hf))
      (s.encodedClip.sR[f]'(by simpa using hf))) := by
  rw [State.byteAt_def, execEncClip_mem h, Memory.get?_write_add, List.getElem_zipWith]
  simpa using hf

/-- Settles O39: ENC_CLIP is one append to the sink and one write of entries into each sequence. -/
theorem encClipWritesStream : Obligations.EncClipWritesStream := by
  refine ⟨by decide, fun s clip hp hF hclip => ?_⟩
  obtain rfl : clip = s.readClip := hclip
  obtain ⟨t, ht⟩ := exec_next .encClip s
  refine ⟨t, ht, execEncClip_outBytes ht, ?_, fun f hf => ?_, fun a hmaj hstb => ?_, ?_⟩
  · rw [execEncClip_encBytes ht, BitVec.toNat_ofNat]
  · have hL : f < s.encodedClip.sL.length := by simpa using hf
    have hR : f < s.encodedClip.sR.length := by simpa using hf
    refine ⟨_, _, execEncClip_byteAt_seqMaj (hF.trans (Params.maxFrames_le hp)) ht hf,
      execEncClip_byteAt_seqStb ht hf, seqEntry_lt .., seqEntry_lt .., ?_, ?_, ?_, ?_⟩
    · rw [seqEntry_left, getElem_encodeClip_mL, invertFrame]
    · rw [seqEntry_right, getElem_encodeClip_mR, invertFrame]
    · rw [seqEntry_left]
      exact List.getElem?_eq_getElem hL
    · rw [seqEntry_right]
      exact List.getElem?_eq_getElem hR
  · rw [State.byteAt_def, execEncClip_mem ht, Memory.get?_write_of_not_mem, Memory.get?_write_of_not_mem]
    · rfl
    · simpa using hmaj
    · simpa using hstb
  · exact execEncClip_frame ht

end Sys2Proof.Machine

end

section
/-!
PROOFS. The component commands (44_framer.md R237): what INVERT, CRC_GEN, SELECT and RLE_ENC leave in the buffers
and registers that FRAME_EMIT writes out.
-/

namespace Sys2Proof.Machine

/-! ### Windows that hold a frame -/

theorem State.HoldsBytes.readBytes {s : State} {base : Nat} {bs : List Byte} (h : s.HoldsBytes base bs) :
    s.readBytes base bs.length = bs := State.readBytes_eq_of_byteAt h

theorem State.HoldsBytes.readFrame {s : State} {w : Window} {bs : List Byte} (h : s.HoldsBytes w.base bs)
    (hl : bs.length = s.cfg.frameBytes) : s.readFrame w = bs := by
  rw [State.readFrame, State.frameSize, ← hl, h.readBytes]

theorem State.holdsBytes_of_mem_write {s t : State} {base : Nat} {bs : List Byte}
    (h : t.mem = s.mem.write base bs) : t.HoldsBytes base bs := fun _ hi => State.byteAt_of_mem_write h hi

/-- A write behind or before the bytes leaves them. -/
theorem State.HoldsBytes.of_mem_write {s t : State} {base b : Nat} {bs ds : List Byte} (hs : s.HoldsBytes base bs)
    (h : t.mem = s.mem.write b ds) (hd : base + bs.length ≤ b ∨ b + ds.length ≤ base) : t.HoldsBytes base bs := by
  intro i hi
  rw [State.sameOutside_of_mem_write h (base + i) (by omega), hs i hi]

theorem State.HoldsBytes.congr {s t : State} {base : Nat} {bs : List Byte} (hs : s.HoldsBytes base bs)
    (h : t.mem = s.mem) : t.HoldsBytes base bs := fun i hi => (State.byteAt_congr h _).trans (hs i hi)

/-! ### What each command leaves -/

theorem execInvert_keeps {s t : State} (h : exec .invert s = .next t) :
    t.selHasPrev = s.selHasPrev ∧ t.outBytes = s.outBytes := by
  cases h
  exact ⟨rfl, rfl⟩

theorem execCrcGen_keeps {s t : State} (h : exec .crcGen s = .next t) :
    t.mem = s.mem ∧ t.selHasPrev = s.selHasPrev ∧ t.outBytes = s.outBytes := by
  cases h
  exact ⟨rfl, rfl, rfl⟩

theorem execCrcGen_crcResult {s t : State} (h : exec .crcGen s = .next t) :
    t.crcResult = crc16 (s.readFrame .fbA) := by
  cases h
  rfl

theorem execSelect_keeps {s t : State} (h : exec .select s = .next t) :
    t.crcResult = s.crcResult ∧ t.outBytes = s.outBytes := by
  cases h
  exact ⟨rfl, rfl⟩

theorem execSelect_readFrame_fbC {s t : State} (h : exec .select s = .next t) :
    t.readFrame .fbC = payload s.cfg (s.readFrame .fbA) s.selectPrev :=
  (State.holdsBytes_of_mem_write (execSelect_mem h)).readFrame (by rw [s.length_payload_selectPrev, exec_cfg h])

theorem execRleEnc_keeps {s t : State} (h : exec .rleEnc s = .next t) :
    t.crcResult = s.crcResult ∧ t.status.key = s.status.key ∧ t.outBytes = s.outBytes := by
  cases h
  exact ⟨rfl, rfl, rfl⟩

/-- RUNBUF[0..RUN_LEN) is the encoding of FB_C. -/
theorem execRleEnc_readRunList {s t : State} (hp : s.cfg.wf = true) (h : exec .rleEnc s = .next t) :
    t.readRunList = rleEncode (s.readFrame .fbC) := by
  rw [State.readRunList, execRleEnc_runLen hp h]
  exact (State.holdsBytes_of_mem_write (execRleEnc_mem h)).readBytes

/-! ### The four commands before FRAME_EMIT -/

/-- FB_A ends before FB_B begins (20_memory.md R70), so the previous frame outlasts INVERT. -/
theorem execInvert_holdsBytes_fbB {s t : State} (hp : s.cfg.wf = true) (h : exec .invert s = .next t)
    {prev : List Byte} (hB : s.HoldsBytes Window.fbB.base prev) : t.HoldsBytes Window.fbB.base prev := by
  have hN := Params.frameBytes_le hp
  refine hB.of_mem_write (execInvert_mem h) (.inr ?_)
  simp only [length_invertFrame, State.length_readFrame, Window.base]
  omega

/-- INVERT and CRC_GEN leave in FB_A and FB_B what SELECT reads, and the checksum of the frame in CRC_RESULT. -/
theorem execInvert_execCrcGen_buffers {s t u : State} {prev : List Byte} (hp : s.cfg.wf = true)
    (hprev : s.selHasPrev = true → prev.length = s.cfg.frameBytes ∧ s.HoldsBytes Window.fbB.base prev)
    (hi : exec .invert s = .next t) (hc : exec .crcGen t = .next u) :
    u.readFrame .fbA = invertFrame (s.readFrame .fbA) ∧
    u.selectPrev = (if s.selHasPrev = true then some prev else none) ∧
    u.crcResult = crc16 (invertFrame (s.readFrame .fbA)) ∧ u.outBytes = s.outBytes := by
  obtain ⟨hselI, houtI⟩ := execInvert_keeps hi
  obtain ⟨hmem, hselC, houtC⟩ := execCrcGen_keeps hc
  have hcfg : u.cfg = s.cfg := (exec_cfg hc).trans (exec_cfg hi)
  have hsel : u.selHasPrev = s.selHasPrev := hselC.trans hselI
  have hA : t.HoldsBytes Window.fbA.base (invertFrame (s.readFrame .fbA)) :=
    State.holdsBytes_of_mem_write (execInvert_mem hi)
  refine ⟨(hA.congr hmem).readFrame (by simp [hcfg]), ?_, ?_, houtC.trans houtI⟩
  · cases hs : s.selHasPrev with
    | false => exact State.selectPrev_of_not_hasPrev (hsel.trans hs)
    | true =>
      obtain ⟨hlen, hB⟩ := hprev hs
      rw [State.selectPrev_of_hasPrev (hsel.trans hs),
        ((execInvert_holdsBytes_fbB hp hi hB).congr hmem).readFrame (by rw [hlen, hcfg]), if_pos rfl]
  · rw [execCrcGen_crcResult hc, hA.readFrame (by simp [exec_cfg hi])]

/-- Settles O40: the four commands leave the frame's run-list in RUNBUF, its checksum in CRC_RESULT and its keyframe
decision in STATUS.KEY, which with the borders is what FRAME_EMIT writes. -/
theorem componentCommandsEmitFrame : Obligations.ComponentCommandsEmitFrame := by
  intro s l r cur prev hp hcur hprev
  have hcur' : cur = invertFrame (s.readFrame .fbA) := by
    rw [hcur, invertFrame, State.readFrame, State.readBytes, List.map_map]
    rfl
  obtain ⟨s1, h1⟩ := exec_next .invert s
  obtain ⟨s2, h2⟩ := exec_next .crcGen s1
  obtain ⟨s3, h3⟩ := exec_next .select s2
  obtain ⟨t, h4⟩ := exec_next .rleEnc s3
  obtain ⟨u, h5⟩ := exec_next .frameEmit { t with hdrArg := headerByte l r t.status.key }
  obtain ⟨hA, hP, hcrc, hout⟩ := execInvert_execCrcGen_buffers hp hprev h1 h2
  rw [← hcur'] at hA hcrc
  generalize (if s.selHasPrev = true then some prev else none) = before at hP ⊢
  obtain ⟨hcrcS, houtS⟩ := execSelect_keeps h3
  obtain ⟨hcrcR, hkeyR, houtR⟩ := execRleEnc_keeps h4
  have hcfg2 : s2.cfg = s.cfg := (exec_cfg h2).trans (exec_cfg h1)
  have hcfg3 : s3.cfg = s.cfg := (exec_cfg h3).trans hcfg2
  have hrun : t.readRunList = rleEncode (payload s.cfg cur before) := by
    rw [execRleEnc_readRunList (hcfg3 ▸ hp) h4, execSelect_readFrame_fbC h3, hA, hP, hcfg2]
  have hkey : t.status.key = isKey s.cfg cur before := by
    rw [hkeyR, execSelect_key h3, hA, hP, hcfg2]
  refine ⟨t, by simp only [execAll, h1, h2, h3, h4], u, h5, (execFrameEmit_outBytes h5).trans ?_⟩
  show t.outBytes ++ recordBytes (headerByte l r t.status.key) t.readRunList t.crcResult = _
  rw [houtR, houtS, hout, hkey, hrun, hcrcR, hcrcS, hcrc, encodeFrame]

end Sys2Proof.Machine

end

section
/-!
PROOFS. The round trip (44_framer.md R236): a DEC_FRAME that meets the record of a frame commits that frame, whatever
follows, so the DEC_FRAMEs of a clip's stream commit its frames one by one (`State.DecodedFrames`).
-/

namespace Sys2Proof.Machine

theorem execAll_concat {is : List Instr} {i : Instr} {s t u : State} (h : execAll is s = .next t)
    (hi : exec i t = .next u) : execAll (is ++ [i]) s = .next u := by
  induction is generalizing s with
  | nil =>
    cases h
    simp only [List.nil_append, execAll, hi]
  | cons j is ih =>
    obtain ⟨v, hv⟩ := exec_next j s
    rw [execAll, hv] at h
    rw [List.cons_append, execAll, hv]
    exact ih h

/-! ### One record -/

theorem xorFrame_xorFrame {a b : List Byte} (h : a.length = b.length) : xorFrame (xorFrame a b) b = a := by
  apply List.ext_getElem
  · simp [h]
  · intro i h1 h2
    rw [getElem_xorFrame, getElem_xorFrame, xor8_xor8]

/-- The decoder assembles the trailer the framer writes. -/
theorem storedCrc_extractLsb' (c : Half) : storedCrc (c.extractLsb' 0 8) (c.extractLsb' 8 8) = c := by
  refine BitVec.eq_of_getLsbD_eq fun j hj => ?_
  rw [storedCrc, BitVec.getLsbD_append, BitVec.getLsbD_extractLsb', BitVec.getLsbD_extractLsb']
  by_cases h : j < 8
  · simp [h]
  · have h8 : j - 8 < 8 := by omega
    have hj' : 8 + (j - 8) = j := by omega
    simp [h, h8, hj']

/-- CACHE is valid and holds the previous frame, where there is one. -/
def State.CacheHolds (s : State) (prev : Option (List Byte)) : Prop :=
  ∀ q ∈ prev, q.length = s.cfg.frameBytes ∧ s.cacheValid = true ∧ s.HoldsBytes Window.cache.base q

theorem State.CacheHolds.none (s : State) : s.CacheHolds none := nofun

/-- With the encoder's payload in WORK and the encoder's previous frame in CACHE, the frame itself is committed. -/
theorem State.applyDelta_payload {s : State} {prev : Option (List Byte)} {cur : List Byte}
    (hprev : s.CacheHolds prev) (hcur : cur.length = s.cfg.frameBytes) (hw : s.work = payload s.cfg cur prev)
    (l r : Bool) (n : Nat) :
    s.applyDelta (headerByte l r (isKey s.cfg cur prev)) (crc16 cur) n =
      ((s.setCrc (crc16 cur)).setWork cur).decodeCommit (headerByte l r (isKey s.cfg cur prev)) n := by
  cases hk : isKey s.cfg cur prev with
  | true =>
    obtain rfl : s.work = cur := hw.trans (payload_of_isKey hk)
    rw [applyDelta_key (headerByte_key ..), verifyChecksum_same rfl]
    rfl
  | false =>
    cases prev with
    | none => cases hk
    | some q =>
      obtain ⟨hq, hvalid, hheld⟩ := hprev q rfl
      have hdecoded : xorFrame s.work (s.readFrame .cache) = cur := by
        rw [hw, payload_of_not_isKey hk, hheld.readFrame hq, xorFrame_xorFrame (hcur.trans hq.symm)]
      rw [applyDelta_delta (headerByte_key ..) hvalid, hdecoded,
        verifyChecksum_same (s := s.setWork cur) (c := crc16 cur) rfl]
      rfl

/-- DEC_FRAME at the record of a frame, its previous frame in CACHE. -/
theorem State.awaitHeader_encodeFrame {s : State} {prev : Option (List Byte)} {cur rest : List Byte} {l r : Bool}
    (hprev : s.CacheHolds prev) (hcur : cur.length = s.cfg.frameBytes)
    (hu : s.unread = encodeFrame s.cfg prev cur l r ++ rest) :
    s.awaitHeader = (((s.advanceInput (encodeFrame s.cfg prev cur l r).length).setCrc (crc16 cur)).setWork
      cur).decodeCommit (headerByte l r (isKey s.cfg cur prev)) s.inPos := by
  have hsource : s.unread = headerByte l r (isKey s.cfg cur prev) :: (rleEncode (payload s.cfg cur prev) ++
      (crc16 cur).extractLsb' 0 8 :: (crc16 cur).extractLsb' 8 8 :: rest) := by
    rw [hu, encodeFrame, recordBytes, List.cons_append, List.append_assoc]
    rfl
  have hlen : (payload s.cfg cur prev).length = s.cfg.frameBytes :=
    (length_payload _ _ _ fun q hq => (hprev q hq).1.trans hcur.symm).trans hcur
  have hruns := rleRoundTrip s.cfg.zeroRun (payload s.cfg cur prev)
    ((crc16 cur).extractLsb' 0 8 :: (crc16 cur).extractLsb' 8 8 :: rest)
  rw [hlen] at hruns
  rw [awaitHeader_record hsource hruns List.drop_left, storedCrc_extractLsb', encodeFrame, length_recordBytes]
  exact State.applyDelta_payload (s := (s.advanceInput _).setWork _) hprev hcur rfl l r s.inPos

theorem State.unread_nextDraw (s : State) : s.nextDraw.unread = s.unread := rfl

theorem State.unread_setCrc (s : State) (c : Half) : (s.setCrc c).unread = s.unread := rfl

theorem State.unread_decodeCommit (s : State) (h : Byte) (n : Nat) : (s.decodeCommit h n).unread = s.unread := rfl

/-- What that DEC_FRAME leaves: the rest of the stream unread, the frame in CACHE as the next previous frame, the
header in DEC_HDR, and one more render event. -/
theorem execDecFrame_encodeFrame {s : State} {prev : Option (List Byte)} {cur rest : List Byte} {l r : Bool}
    (hprev : s.CacheHolds prev) (hcur : cur.length = s.cfg.frameBytes)
    (hu : s.unread = encodeFrame s.cfg prev cur l r ++ rest) :
    ∃ t, exec .decFrame s = .next t ∧ t.cfg = s.cfg ∧ t.unread = rest ∧
      t.inPos = s.inPos + (encodeFrame s.cfg prev cur l r).length ∧ t.CacheHolds (some cur) ∧
      t.renderEvents.length = s.renderEvents.length + 1 ∧ t.status.produced = true ∧
      t.decHdr = headerByte l r (isKey s.cfg cur prev) := by
  refine ⟨s.awaitHeader.nextDraw, rfl, ?_⟩
  rw [State.awaitHeader_encodeFrame hprev hcur hu]
  refine ⟨by simp, ?_, by simp, ?_, by simp, by simp, by simp⟩
  · rw [State.unread_nextDraw, State.unread_decodeCommit, State.unread_setWork, State.unread_setCrc,
      State.unread_advanceInput, hu, List.drop_left]
  · intro q hq
    obtain rfl := Option.some.inj hq
    exact ⟨by simpa using hcur, by simp, State.holdsBytes_of_mem_write (s := s) (by simp)⟩

theorem execDecFrame_boundary {s : State} (hu : s.unread = []) :
    ∃ t, exec .decFrame s = .next t ∧ t.status.produced = false ∧ t.status.decErr = some .streamTruncated ∧
      t.status.truncAtBoundary = true ∧ t.inPos = s.inPos := by
  refine ⟨s.awaitHeader.nextDraw, rfl, ?_⟩
  rw [State.awaitHeader_empty hu]
  exact ⟨rfl, rfl, rfl, rfl⟩

/-! ### The records of a clip -/

/-- The decoder has committed the first `f` frames of the clip: the records left are those from `f` on, CACHE holds
the inverted frame before `f`, and to the `events` render events of the start `f` have been added. -/
structure State.DecodedFrames (u : State) (p : Params) (clip : List (List Byte)) (wn events f : Nat) : Prop where
  cfg : u.cfg = p
  records : u.unread = ((clipRecords p clip wn).drop f).flatten
  position : u.inPos + u.unread.length = (encodeClip p clip wn).out.length
  history : u.CacheHolds (clipPrev clip f)
  rendered : u.renderEvents.length = events + f

section clip

variable {p : Params} {clip : List (List Byte)} {wn events : Nat}
  (hlen : ∀ fr ∈ clip, fr.length = p.frameBytes)

include hlen

/-- One more DEC_FRAME commits frame f. -/
theorem State.DecodedFrames.decFrame {u : State} {f : Nat} (hu : u.DecodedFrames p clip wn events f)
    (hf : f < clip.length) :
    ∃ v, exec .decFrame u = .next v ∧ v.DecodedFrames p clip wn events (f + 1) ∧ v.status.produced = true ∧
      v.decHdr = headerByte ((encodeClip p clip wn).sL[f]'(by simpa using hf))
        ((encodeClip p clip wn).sR[f]'(by simpa using hf)) (isKey p (invertFrame clip[f]) (clipPrev clip f)) := by
  obtain ⟨rfl, hrecords, hposition, hhistory, hrendered⟩ := hu
  have hcur : (invertFrame clip[f]).length = u.cfg.frameBytes := by
    rw [length_invertFrame]
    exact hlen _ (List.getElem_mem hf)
  have hnext := hrecords
  rw [List.drop_eq_getElem_cons (by simpa using hf), List.flatten_cons, getElem_clipRecords _ _ _ hf] at hnext
  obtain ⟨v, hv, hcfg, hunread, hpos, hcache, hevents, hproduced, hhdr⟩ :=
    execDecFrame_encodeFrame hhistory hcur hnext
  refine ⟨v, hv, ⟨hcfg, hunread, ?_, clipPrev_succ clip hf ▸ hcache, ?_⟩, hproduced, hhdr⟩
  · rw [hpos, hunread, Nat.add_assoc, ← List.length_append, ← hnext, hposition]
  · rw [hevents, hrendered, Nat.add_assoc]

/-- So f DEC_FRAMEs commit the first f frames. -/
theorem State.DecodedFrames.replicate {s : State} (hs : s.DecodedFrames p clip wn events 0) {f : Nat}
    (hf : f ≤ clip.length) :
    ∃ u, execAll (List.replicate f .decFrame) s = .next u ∧ u.DecodedFrames p clip wn events f := by
  induction f with
  | zero => exact ⟨s, rfl, hs⟩
  | succ f ih =>
    obtain ⟨u, hu, hdecoded⟩ := ih (Nat.le_of_succ_le hf)
    obtain ⟨v, hv, hdecoded', -⟩ := hdecoded.decFrame hlen hf
    exact ⟨v, List.replicate_succ' ▸ execAll_concat hu hv, hdecoded'⟩

end clip

/-- The keyframe decision of frame f of a clip: no frame before it, or too many bytes that differ from it. -/
theorem isKey_clipPrev_iff (p : Params) (clip : List (List Byte)) {f : Nat} (hf : f < clip.length) :
    isKey p (invertFrame clip[f]) (clipPrev clip f) = true ↔ ∀ g (_ : g < clip.length), f = g + 1 →
      4 * nonzeroCount (xorFrame (invertFrame clip[f]) (invertFrame clip[g])) > 3 * p.frameBytes := by
  cases f with
  | zero => exact iff_of_true rfl nofun
  | succ g =>
    rw [clipPrev_succ clip (Nat.lt_of_succ_lt hf), isKey_some_iff]
    refine ⟨?_, fun h => h g _ rfl⟩
    rintro h g' _ ⟨⟩
    exact h

theorem State.frameOut_raw {s : State} {fr : List Byte} (hc : s.cfg.outConv = .raw)
    (hs : s.readFrame .cache = invertFrame fr) : s.frameOut = fr := by
  rw [State.frameOut, hc, hs]
  exact invertFrame_invertFrame fr

/-- The decoder at the start of the stream that ENC_CLIP has just written to an empty sink. -/
theorem execEncClip_decodedFrames {s t : State} (hout : s.outBytes = []) (h : exec .encClip s = .next t) :
    State.DecodedFrames { t with inBytes := t.outBytes, inPos := 0 } s.cfg s.readClip s.cfgWindow.toNat
      s.renderEvents.length 0 := by
  have hstream : t.outBytes = s.encodedClip.out := by
    rw [execEncClip_outBytes h, hout, List.nil_append]
  have hcfg : t.cfg = s.cfg := exec_cfg h
  refine ⟨hcfg, hstream.trans (encodeClip_out ..), ?_, State.CacheHolds.none _, ?_⟩
  · show 0 + t.outBytes.length = _
    rw [Nat.zero_add, hstream]
  · exact congrArg List.length (exec_keepsDecoder (by decide) (by decide) (by decide) h).renderEvents

/-- Settles O55: after f DEC_FRAMEs the decoder stands at record f with the previous frame in CACHE, where one more
commits frame f; after all of them it stands at the end of the stream. -/
theorem clipRoundTrip : Obligations.ClipRoundTrip := by
  intro s clip _ _ hout hclip
  obtain rfl : clip = s.readClip := hclip
  obtain ⟨t, ht⟩ := exec_next .encClip s
  have hstart := execEncClip_decodedFrames hout ht
  have hlen : ∀ fr ∈ s.readClip, fr.length = s.cfg.frameBytes := by
    intro fr hfr
    obtain ⟨f, -, rfl⟩ := List.mem_map.1 hfr
    exact s.length_readClipFrame f
  refine ⟨t, ht, fun f hf => ?_, ?_⟩
  · obtain ⟨v, hv, hdecoded⟩ := hstart.replicate hlen hf.le
    obtain ⟨u, hu, ⟨hcfg, -, -, hhistory, hrendered⟩, hproduced, hhdr⟩ := hdecoded.decFrame hlen hf
    obtain ⟨hsize, hvalid, hheld⟩ := hhistory _ (clipPrev_succ s.readClip hf)
    refine ⟨u, List.replicate_succ' ▸ execAll_concat hv hu, hproduced, hvalid, hheld, ?_, ?_, ?_, ?_,
      fun hraw => State.frameOut_raw (hcfg ▸ hraw) (hheld.readFrame hsize), hrendered⟩
    · rw [hhdr]
      exact headerByte_lt ..
    · rw [hhdr, headerByte_key]
      exact isKey_clipPrev_iff s.cfg s.readClip hf
    · rw [State.borderL, hhdr, headerByte_left, List.getElem?_eq_getElem]
    · rw [State.borderR, hhdr, headerByte_right, List.getElem?_eq_getElem]
  · obtain ⟨v, hv, ⟨-, hrecords, hposition, -, -⟩⟩ := hstart.replicate hlen le_rfl
    have hend : v.unread = [] := by
      rw [hrecords, ← length_clipRecords s.cfg s.readClip s.cfgWindow.toNat, List.drop_length, List.flatten_nil]
    obtain ⟨u, hu, hproduced, herr, hboundary, hpos⟩ := execDecFrame_boundary hend
    refine ⟨u, List.replicate_succ' ▸ execAll_concat hv hu, hproduced, herr, hboundary, ?_⟩
    rw [hpos, execEncClip_outBytes ht, hout, List.nil_append, ← hposition, hend]
    rfl

end Sys2Proof.Machine

end

section
/-!
PROOFS. The decoder (45_decoder.md): how a DEC_FRAME ends for each way its input reads, in the terms `FailsAs` and
`CommitsAs`; the statements about whole, bad and truncated records follow. Last, what a failure forces (R275).
-/

namespace Sys2Proof.Machine

/-! ### The two endings -/

theorem consumedWord_toNat {k : Nat} (hk : k < 2 ^ 32) : (consumedWord k).toNat = k := by
  rw [consumedWord, if_pos hk, BitVec.toNat_ofNat, Nat.mod_eq_of_lt hk]

/-- DEC_CONSUMED is counted from the input position at the command's start (10_state.md R50). -/
theorem State.consumedWord_inPos_toNat (s : State) {u : Nat} (hu : u < 2 ^ 32) :
    (consumedWord (s.inPos + u - s.inPos)).toNat = u := by
  rw [Nat.add_sub_cancel_left, consumedWord_toNat hu]

theorem State.failsAs_decodeFail (s : State) (k : FailKind) (p : WorkPhase) (u : Nat) (c : Half) :
    s.FailsAs (((s.advanceInput u).setCrc c).decodeFail k p s.inPos).nextDraw k p u c := by
  refine ⟨?_, s.consumedWord_inPos_toNat⟩
  cases hp : s.cfg.failPolicy <;> simp [State.nextDraw, State.decodeFail, State.setCrc, State.advanceInput, hp]

theorem State.commitsAs_decodeCommit (s : State) (h : Byte) (w : List Byte) (u : Nat) :
    s.CommitsAs ((((s.advanceInput u).setCrc (crc16 w)).setWork w).decodeCommit h s.inPos).nextDraw h w u := by
  have hmem : ((((s.advanceInput u).setCrc (crc16 w)).setWork w).decodeCommit h s.inPos).nextDraw.mem =
      s.mem.write Window.cache.base w := rfl
  refine ⟨?_, s.consumedWord_inPos_toNat, State.holdsBytes_of_mem_write hmem, State.sameOutside_of_mem_write hmem⟩
  cases hc : s.cfg.outConv <;> simp [State.nextDraw, State.decodeCommit, State.render, State.writeWindow,
    State.writeBytes, State.setWork, State.setCrc, State.advanceInput, outFrame, hc]

/-! ### The checksum of a record -/

theorem storedCrc_toNat (t0 t1 : Byte) : (storedCrc t0 t1).toNat = t0.toNat + 256 * t1.toNat := by
  rw [storedCrc, BitVec.toNat_append, ← Nat.shiftLeft_add_eq_or_of_lt t0.isLt, Nat.shiftLeft_eq, Nat.add_comm,
    Nat.mul_comm]

theorem eq_storedCrc_iff (c : Half) (t0 t1 : Byte) :
    c = storedCrc t0 t1 ↔ c.toNat = t0.toNat + 256 * t1.toNat := by
  rw [← storedCrc_toNat, BitVec.toNat_inj]

/-- The frame that a payload gives under a header: the payload itself for a keyframe, else what it changes of
CACHE (45_decoder.md R265). -/
def State.reconstruct (s : State) (h : Byte) (out : List Byte) : List Byte :=
  if h.getLsbD 2 = true then out else xorFrame out (s.readFrame .cache)

/-- A keyframe or a delta with a valid cache goes to VerifyingChecksum with its reconstructed frame. -/
theorem State.applyDelta_reconstruct {s : State} {h : Byte} (hh : h.getLsbD 2 = true ∨ s.cacheValid = true)
    (c : Half) (n : Nat) :
    s.applyDelta h c n = (s.setWork (s.reconstruct h s.work)).verifyChecksum h c n := by
  cases hk : h.getLsbD 2 with
  | true =>
    rw [State.applyDelta_key hk, State.reconstruct, if_pos hk]
    rfl
  | false =>
    rw [State.applyDelta_delta hk (hh.resolve_left (ne_true_of_eq_false hk)), State.reconstruct,
      if_neg (ne_true_of_eq_false hk)]

theorem State.eq_reconstruct {s : State} {h : Byte} {out w : List Byte}
    (hw : h.getLsbD 2 = true ∧ w = out ∨
      h.getLsbD 2 = false ∧ s.cacheValid = true ∧ w = xorFrame out (s.readFrame .cache)) :
    (h.getLsbD 2 = true ∨ s.cacheValid = true) ∧ w = s.reconstruct h out := by
  rcases hw with ⟨hk, rfl⟩ | ⟨hk, hv, rfl⟩
  · exact ⟨.inl hk, (if_pos hk).symm⟩
  · exact ⟨.inr hv, (if_neg (ne_true_of_eq_false hk)).symm⟩

/-- A keyframe or a delta with a valid cache: the checksum of the reconstructed frame decides. -/
theorem State.awaitHeader_reconstruct {s : State} {h t0 t1 : Byte} {source out more : List Byte} {u : Nat}
    (hu : s.unread = h :: source) (hr : rleDecode s.cfg.zeroRun s.cfg.frameBytes source = ⟨.ok out, u⟩)
    (htrailer : source.drop u = t0 :: t1 :: more) (hh : h.getLsbD 2 = true ∨ s.cacheValid = true) :
    s.awaitHeader = ((s.advanceInput (3 + u)).setWork (s.reconstruct h out)).verifyChecksum h (storedCrc t0 t1)
      s.inPos := by
  rw [State.awaitHeader_record hu hr htrailer, Nat.add_comm u,
    State.applyDelta_reconstruct (s := (s.advanceInput _).setWork _) hh]
  rfl

/-! ### How DEC_FRAME ends -/

section decFrame

variable {s t : State} {h : Byte} {source : List Byte} (ht : exec .decFrame s = .next t)

include ht

theorem execDecFrame_empty (hu : s.unread = []) :
    s.FailsAs t .streamTruncated .awaitingHeader 0 s.crcResult := by
  cases ht
  rw [State.awaitHeader_empty hu]
  exact s.failsAs_decodeFail _ _ 0 s.crcResult

theorem execDecFrame_runsFail (hu : s.unread = h :: source) {k : FailKind} {u : Nat}
    (hr : rleDecode s.cfg.zeroRun s.cfg.frameBytes source = ⟨.err k, u⟩) :
    s.FailsAs t k .decodingRuns (1 + u) s.crcResult := by
  cases ht
  rw [State.awaitHeader_runsFail hu hr]
  exact s.failsAs_decodeFail _ _ _ s.crcResult

variable {out : List Byte} {u : Nat} (hu : s.unread = h :: source)
  (hr : rleDecode s.cfg.zeroRun s.cfg.frameBytes source = ⟨.ok out, u⟩)

include hu hr

/-- A cut trailer is consumed, and with it all the input there is. -/
theorem execDecFrame_trailerCut (hcut : (source.drop u).length < 2) :
    s.FailsAs t .streamTruncated .decodingRuns (1 + source.length) s.crcResult := by
  have hle := rleDecode_used_le s.cfg.zeroRun s.cfg.frameBytes source
  rw [hr] at hle
  have hall : 1 + u + (source.drop u).length = 1 + source.length := by
    rw [List.length_drop, Nat.add_assoc, Nat.add_sub_cancel' hle]
  cases ht
  rw [State.awaitHeader_trailerCut hu hr rfl hcut, hall]
  exact s.failsAs_decodeFail _ _ _ s.crcResult

variable {t0 t1 : Byte} {more : List Byte} (htrailer : source.drop u = t0 :: t1 :: more)

include htrailer

theorem execDecFrame_noHistory (hk : h.getLsbD 2 = false) (hv : s.cacheValid = false) :
    s.FailsAs t .deltaWithoutHistory .applyingDelta (3 + u) s.crcResult := by
  cases ht
  rw [State.awaitHeader_record hu hr htrailer, Nat.add_comm u,
    State.applyDelta_noHistory (s := (s.advanceInput _).setWork _) hk hv]
  exact s.failsAs_decodeFail _ _ _ s.crcResult

theorem execDecFrame_checksumDiffers (hh : h.getLsbD 2 = true ∨ s.cacheValid = true)
    (hc : (crc16 (s.reconstruct h out)).toNat ≠ t0.toNat + 256 * t1.toNat) :
    s.FailsAs t .checksumMismatch .verifyingChecksum (3 + u) (crc16 (s.reconstruct h out)) := by
  rw [Ne, ← eq_storedCrc_iff] at hc
  cases ht
  rw [State.awaitHeader_reconstruct hu hr htrailer hh,
    State.verifyChecksum_differ (s := (s.advanceInput _).setWork (s.reconstruct h out)) hc]
  exact s.failsAs_decodeFail _ _ _ (crc16 (s.reconstruct h out))

theorem execDecFrame_commits (hh : h.getLsbD 2 = true ∨ s.cacheValid = true)
    (hc : (crc16 (s.reconstruct h out)).toNat = t0.toNat + 256 * t1.toNat) :
    s.CommitsAs t h (s.reconstruct h out) (3 + u) := by
  rw [← eq_storedCrc_iff] at hc
  cases ht
  rw [State.awaitHeader_reconstruct hu hr htrailer hh,
    State.verifyChecksum_same (s := (s.advanceInput _).setWork (s.reconstruct h out)) hc, ← hc]
  exact s.commitsAs_decodeCommit h _ _

end decFrame

/-- Settles O41: each clause is one way the record reads. -/
theorem decodeFollowsPhases : Obligations.DecodeFollowsPhases := by
  refine ⟨by decide, fun s => ?_⟩
  obtain ⟨t, ht⟩ := exec_next .decFrame s
  refine ⟨t, ht, execDecFrame_empty ht, ?_⟩
  rintro h source ⟨result, u⟩ hu hr
  refine ⟨?_, ?_⟩
  · rintro k rfl
    exact execDecFrame_runsFail ht hu hr.symm
  · rintro out rfl
    refine ⟨execDecFrame_trailerCut ht hu hr.symm, fun t0 t1 more w htrailer hw => ?_⟩
    obtain rfl : w = s.reconstruct h out := hw
    exact ⟨execDecFrame_noHistory ht hu hr.symm htrailer, fun hh =>
      ⟨execDecFrame_checksumDiffers ht hu hr.symm htrailer hh, execDecFrame_commits ht hu hr.symm htrailer hh⟩⟩

/-! ### Whole records -/

/-- The run-list of a whole record decodes, and its trailer stands behind it (42_rle.md R183). -/
theorem rleDecode_wholeRecord (zr : ZeroRun) {rs : List (Nat × Byte)} {N : Nat} (hl : legalRuns rs)
    (hN : runTotal rs = N) (tail : List Byte) :
    rleDecode zr N (serialiseRuns rs ++ tail) = ⟨.ok (expandRuns rs), 2 * rs.length⟩ ∧
      (serialiseRuns rs ++ tail).drop (2 * rs.length) = tail := by
  subst hN
  exact ⟨rleDecodeAcceptsAnyRunList zr rs tail hl, List.drop_left' (length_serialiseRuns rs)⟩

/-- Settles O42: a whole record reads to its end, and its frame has the stored checksum. -/
theorem wholeRecordCommits : Obligations.WholeRecordCommits := by
  intro s h t0 t1 rs rest w _ hu hl hN hw hc
  obtain ⟨hh, rfl⟩ := State.eq_reconstruct hw
  obtain ⟨hr, htrailer⟩ := rleDecode_wholeRecord s.cfg.zeroRun hl hN (t0 :: t1 :: rest)
  obtain ⟨t, ht⟩ := exec_next .decFrame s
  exact ⟨t, ht, execDecFrame_commits ht hu hr htrailer hh hc⟩

/-- Settles O43: a whole record reads to its end, where the history is asked for before the checksum. -/
theorem wholeRecordFailures : Obligations.WholeRecordFailures := by
  intro s h t0 t1 rs rest _ hu hl hN
  obtain ⟨hr, htrailer⟩ := rleDecode_wholeRecord s.cfg.zeroRun hl hN (t0 :: t1 :: rest)
  obtain ⟨t, ht⟩ := exec_next .decFrame s
  refine ⟨fun hk hv => ⟨t, ht, execDecFrame_noHistory ht hu hr htrailer hk hv⟩, fun w hw hc => ⟨t, ht, ?_⟩⟩
  obtain ⟨hh, rfl⟩ := State.eq_reconstruct hw
  exact execDecFrame_checksumDiffers ht hu hr htrailer hh hc

/-! ### Records that do not read to their end -/

/-- Settles O44: the pairs before the offending one leave something needed, and RleDecode reports it (O31). -/
theorem badRunListFails : Obligations.BadRunListFails := by
  intro s h c v rs rest hu hl hlt
  obtain ⟨-, -, hoverflow, hzero, -⟩ := rleDecodeErrors s.cfg.zeroRun rs s.cfg.frameBytes hl hlt
  obtain ⟨t, ht⟩ := exec_next .decFrame s
  have hused : 3 + 2 * rs.length = 1 + (2 * rs.length + 2) := by omega
  rw [hused]
  refine ⟨fun hc => ⟨t, ht, execDecFrame_runsFail ht hu (hoverflow c v rest hc)⟩, ?_⟩
  rintro rfl hz
  exact ⟨t, ht, execDecFrame_runsFail ht hu (hzero v rest hz)⟩

/-- A legal run-list cut off before its end leaves the frame unfilled: the source runs out (42_rle.md R184). -/
theorem rleDecode_take_serialiseRuns (zr : ZeroRun) {rs : List (Nat × Byte)} {k : Nat} (hl : legalRuns rs)
    (hk : k < 2 * rs.length) :
    rleDecode zr (runTotal rs) ((serialiseRuns rs).take k) = ⟨.err .streamTruncated, k⟩ := by
  induction rs generalizing k with
  | nil => cases hk
  | cons r rs ih =>
    obtain ⟨c, v⟩ := r
    obtain ⟨⟨hpos, hmax⟩, hrs⟩ := (legalRuns_cons ..).1 hl
    have hneed : 0 < runTotal ((c, v) :: rs) := Nat.add_pos_left hpos _
    match k with
    | 0 => exact rleDecode_empty zr hneed
    | 1 => exact rleDecode_lone zr hneed _
    | k + 2 =>
      have hc : (BitVec.ofNat 8 c).toNat = c := Nat.mod_eq_of_lt (by omega)
      have hk' : k < 2 * rs.length := by
        rw [List.length_cons] at hk
        omega
      rw [serialiseRuns_cons, List.take_succ_cons, List.take_succ_cons,
        rleDecode_run zr _ (by omega) (by rw [hc]; exact Nat.le_add_right ..), hc, runTotal, Nat.add_sub_cancel_left,
        ih hrs hk']
      rfl

/-- Settles O45: cut before its header, inside its run-list, or inside its trailer. -/
theorem truncatedRecordFails : Obligations.TruncatedRecordFails := by
  intro s h t0 t1 rs k hl hN hk hu
  obtain ⟨t, ht⟩ := exec_next .decFrame s
  refine ⟨t, ht, ?_⟩
  cases k with
  | zero => exact execDecFrame_empty ht hu
  | succ k =>
    rw [List.take_succ_cons] at hu
    rw [if_neg k.succ_ne_zero, Nat.add_comm k 1]
    by_cases hcut : k < 2 * rs.length
    · rw [List.take_append_of_le_length (by rw [length_serialiseRuns]; exact hcut.le)] at hu
      exact execDecFrame_runsFail ht hu (hN ▸ rleDecode_take_serialiseRuns _ hl hcut)
    · obtain ⟨j, rfl⟩ := Nat.exists_eq_add_of_le (Nat.le_of_not_lt hcut)
      have hj : j < 2 := by omega
      rw [← length_serialiseRuns, List.take_length_add_append] at hu
      obtain ⟨hr, htrailer⟩ := rleDecode_wholeRecord s.cfg.zeroRun hl hN ([t0, t1].take j)
      have hlen : ([t0, t1].take j).length = j := List.length_take_of_le hj.le
      have hfails := execDecFrame_trailerCut ht hu hr (by rw [htrailer, hlen]; exact hj)
      rwa [List.length_append, length_serialiseRuns, hlen] at hfails

/-- Settles O46: everything a DEC_FRAME can do is a failure before the checksum, a failure on it, or a commit. -/
theorem decodeCommitsOrFailsWhole : Obligations.DecodeCommitsOrFailsWhole := by
  intro s
  refine ⟨s.awaitHeader.nextDraw, rfl, ?_⟩
  rcases s.awaitHeader_cases with
      ⟨u, k, p, hu, hl, -, heof, -, e⟩ | ⟨u, w, hu, -, e⟩ | ⟨u, h, w, hu, hw, hh, hhead, e⟩ <;>
    rw [e] <;> refine ⟨u, hu, ?_⟩
  · exact .inr ⟨rfl, k, p, s.crcResult, hl, fun _ => rfl, heof, s.failsAs_decodeFail k p u s.crcResult⟩
  · exact .inr ⟨rfl, _, _, crc16 w, rfl, fun hne => absurd rfl hne, nofun, s.failsAs_decodeFail _ _ u _⟩
  · exact .inl ⟨rfl, h, w, hw, hhead, hh, s.commitsAs_decodeCommit h w u⟩

/-! ### After a failure -/

/-- Under INVALIDATE a failed DEC_FRAME leaves no valid cache and a recorded failure (45_decoder.md R275). -/
theorem execDecFrame_failed {s t : State} (hp : s.cfg.failPolicy = .invalidate) (h : exec .decFrame s = .next t)
    (ht : t.status.produced = false) : t.cacheValid = false ∧ t.status.decErr ≠ none := by
  rcases execDecFrame_cases h with ⟨-, -, herr, hinvalid⟩ | hcommit
  · exact ⟨hinvalid hp, herr⟩
  · exact absurd (ht.symm.trans hcommit.produced) (by decide)

theorem State.NoCommit.cacheInvalid {s t : State} (h : s.NoCommit t) (hv : s.cacheValid = false) :
    t.cacheValid = false := by
  cases ht : t.cacheValid with
  | false => rfl
  | true => exact absurd (h.cacheValid ht) (by simp [hv])

theorem step_recordedFailure {s t : State} (hp : s.cfg.failPolicy = .invalidate)
    (hs : s.status.decErr ≠ none → s.cacheValid = false) (h : step s = .next t) (ht : t.status.decErr ≠ none) :
    t.cacheValid = false := by
  rcases step_cases h with ⟨-, -, hfailure⟩ | hcommit
  · rcases hfailure with ⟨herr, hvalid⟩ | hnone | hinvalid
    · exact hvalid.trans (hs (herr ▸ ht))
    · exact absurd hnone ht
    · exact hinvalid hp
  · exact absurd hcommit.noFailure ht

/-- Without a valid cache, only the commit of a keyframe makes it valid or renders. -/
theorem step_commitsKeyframe {s t : State} (hv : s.cacheValid = false) (h : step s = .next t)
    (ht : t.cacheValid = true ∨ t.renderEvents ≠ s.renderEvents) :
    t.status.produced = true ∧ t.decHdr.getLsbD 2 = true := by
  rcases step_cases h with hno | hcommit
  · rcases ht with hvalid | hrender
    · exact absurd (hno.cacheInvalid hv) (by simp [hvalid])
    · exact absurd hno.renderEvents hrender
  · exact ⟨hcommit.produced, hcommit.keyframe hv⟩

theorem coreRun_succ {M : Host.Core} {k : Nat} {s t : M.State} (h : M.run (k + 1) s = .next t) :
    ∃ u, M.step s = .next u ∧ M.run k u = .next t := by
  rw [Host.Core.run] at h
  split at h
  · exact ⟨_, ‹_›, h⟩
  · cases h
  · cases h

theorem step_renderEvents_length_le {s t : State} (h : step s = .next t) :
    s.renderEvents.length ≤ t.renderEvents.length := by
  rcases step_cases h with hno | hcommit
  · rw [hno.renderEvents]
  · obtain ⟨e, he⟩ := hcommit.renderEvents
    simp [he]

/-- No step takes a render event back. -/
theorem run_renderEvents_length_le {k : Nat} {s t : State} (h : Sys2Proof.core.run k s = .next t) :
    s.renderEvents.length ≤ t.renderEvents.length := by
  induction k generalizing s with
  | zero =>
    cases h
    exact le_rfl
  | succ k ih =>
    obtain ⟨u, hstep, hrun⟩ := coreRun_succ h
    exact (step_renderEvents_length_le hstep).trans (ih hrun)

/-- A run that renders nothing commits nothing, so a cache that was not valid is not valid at its end. -/
theorem run_cacheInvalid {k : Nat} {s t : State} (hv : s.cacheValid = false)
    (h : Sys2Proof.core.run k s = .next t) (hr : t.renderEvents = s.renderEvents) : t.cacheValid = false := by
  induction k generalizing s with
  | zero =>
    cases h
    exact hv
  | succ k ih =>
    obtain ⟨u, hstep, hrun⟩ := coreRun_succ h
    rcases step_cases hstep with hno | hcommit
    · exact ih (hno.cacheInvalid hv) hrun (hr.trans hno.renderEvents.symm)
    · obtain ⟨e, he⟩ := hcommit.renderEvents
      have hle := run_renderEvents_length_le hrun
      rw [he, hr, List.length_append, List.length_singleton] at hle
      omega

/-- Settles O48: a failure leaves no valid cache, and until the next commit no step makes one. -/
theorem failureForcesKeyframe : Obligations.FailureForcesKeyframe := by
  refine ⟨fun s t => execDecFrame_failed, fun s t => step_recordedFailure, fun s t => step_commitsKeyframe, ?_, ?_⟩
  · intro s t u bytes pos hp ht hfailed hu hproduced
    obtain ⟨hv, -⟩ := execDecFrame_failed hp ht hfailed
    rcases execDecFrame_cases hu with ⟨-, hnot, -, -⟩ | hcommit
    · exact absurd (hproduced.symm.trans hnot) (by decide)
    · exact hcommit.keyframe hv
  · intro k s t u hv hrun hr hstep hrender
    exact step_commitsKeyframe (run_cacheInvalid hv hrun hr) hstep (.inr hrender)

/-- Settles O49: DEC_RESTART is exactly these writes. -/
theorem decRestartRewinds : Obligations.DecRestartRewinds := ⟨by decide, fun _ => rfl⟩

end Sys2Proof.Machine

end

section
/-!
PROOFS. Command dispatch and the control commands (46_control.md): what every legal command writes of STATUS and CMD,
the illegal command, NOP and SOFT_RESET.
-/

namespace Sys2Proof.Machine

/-! ### Legal commands -/

/-- The value a command gives OK, read from the STATUS it leaves (46_control.md R303). -/
def okRule (i : Instr) (st : Status) : Bool :=
  match i with
  | .rleDec => st.rleErr.isNone
  | .crcCheck => st.crcMatch
  | .decFrame => st.produced
  | _ => true

/-- `t` has the STATUS and CMD of a state in which the command `i` has completed from `s` (46_control.md R303); of the
decode fields, which `KeepsDecoder` speaks of, it says nothing. -/
structure State.CompletedBy (i : Instr) (s t : State) : Prop where
  illegal : t.status.illegal = false
  ok : t.status.ok = okRule i t.status
  key : i ≠ .select → i ≠ .softReset → t.status.key = s.status.key
  crcMatch : i ≠ .crcCheck → i ≠ .softReset → t.status.crcMatch = s.status.crcMatch
  rleErr : i ≠ .rleDec → i ≠ .softReset → t.status.rleErr = s.status.rleErr
  cmd : i ≠ .softReset → t.cmd = s.cmd

/-- A DEC_FRAME ends with OK = PRODUCED whether it commits or fails. -/
theorem execDecFrame_completedBy {s t : State} (h : exec .decFrame s = .next t) : s.CompletedBy .decFrame t := by
  cases h
  rcases s.awaitHeader_cases with ⟨_, _, _, -, -, -, -, -, e⟩ | ⟨_, _, -, -, e⟩ | ⟨_, _, _, -, -, -, -, e⟩ <;>
    rw [e] <;> constructor <;> simp [okRule]

/-- An RLE_DEC ends with OK = (RLE_ERR = 0). -/
theorem execRleDec_completedBy {s t : State} (h : exec .rleDec s = .next t) : s.CompletedBy .rleDec t := by
  have hcmd : t.cmd = s.cmd := by rw [execRleDec_frame h]
  rcases hr : (rleDecode s.cfg.zeroRun s.cfg.frameBytes s.readRunList).result with out | k
  · obtain ⟨-, hst⟩ := execRleDec_ok h hr
    constructor <;> simp [hst, hcmd, okRule, Status.completed]
  · obtain ⟨-, hst⟩ := execRleDec_err h hr
    constructor <;> simp [hst, hcmd, okRule, Status.completed]

theorem exec_completedBy {i : Instr} {s t : State} (h : exec i s = .next t) : s.CompletedBy i t := by
  cases i
  case decFrame => exact execDecFrame_completedBy h
  case rleDec => exact execRleDec_completedBy h
  all_goals
    cases h
    constructor <;> simp [okRule]

/-- Settles O7: a CMD write is served by the command it encodes, and only DEC_FRAME, DEC_RESTART and SOFT_RESET touch
the decode fields. -/
theorem commandsWriteOnlyTheirStatusFields : Obligations.CommandsWriteOnlyTheirStatusFields := by
  intro i s
  obtain ⟨t, ht⟩ := exec_next i { s with cmd := encode i }
  have hc := exec_completedBy ht
  refine ⟨t, (step_commandWrite rfl (decode_encode i)).trans ht, ht, hc.illegal, hc.ok, hc.key, hc.crcMatch, hc.rleErr,
    fun hf hr hs => ?_, hc.cmd, ?_⟩
  · have hk := exec_keepsDecoder hf hr hs ht
    rw [hk.status]
    exact ⟨rfl, rfl, rfl, rfl, hk.cacheValid⟩
  · rintro rfl
    cases ht
    rfl

/-! ### The illegal command -/

theorem decode_illegal {w : Word} (h : ∀ i, w ≠ encode i) : ∃ r, decode w = .illegal r := by
  cases hd : decode w with
  | legal i => exact absurd (decode_eq_legal_iff_eq_encode.1 hd) (h i)
  | illegal r => exact ⟨r, rfl⟩

/-- A step that serves a write of an illegal word to CMD stores it and reports it (46_control.md R302). -/
theorem step_illegalWrite {s : State} {rest : List HostOp} {w : Word} {r : Reject}
    (hq : s.hostQueue = .write 0 .four w :: rest) (hd : decode w = .illegal r) :
    step s = .next ({ s with hostQueue := rest, cmd := w } : State).illegalCommand := by
  have hreg : regAccess? (0 : Word).toNat .four = some .cmd := regAccess?_offset .cmd
  simp only [step, hq, State.serve, State.memWrite, hreg, State.writeReg, State.hostCommand, hd, if_true]

/-- Settles O5: the decoder rejects every word that encodes no command, and the next CMD write is served like any
other. -/
theorem illegalWordOnlySetsIllegal : Obligations.IllegalWordOnlySetsIllegal := by
  intro s rest w hq hw
  obtain ⟨r, hd⟩ := decode_illegal hw
  exact ⟨_, step_illegalWrite hq hd, rfl, rfl, fun i more hrest => step_commandWrite hrest (decode_encode i)⟩

/-! ### NOP and SOFT_RESET -/

/-- Settles O8: NOP is the completion of a legal command and nothing else. -/
theorem nopOnlyCompletes : Obligations.NopOnlyCompletes := ⟨by decide, by decide, fun _ => rfl⟩

/-- Settles O9: SOFT_RESET is the register reset, completed; STATUS, CLASS and WHITE are each the sum of their
fields, of which OK alone is set. -/
theorem softResetRestoresRegisters : Obligations.SoftResetRestoresRegisters := by
  refine ⟨by decide, fun s => ⟨_, rfl, fun r => ?_, rfl, rfl, rfl, rfl, rfl, rfl, rfl, rfl, rfl, rfl, rfl, rfl⟩⟩
  cases r
  case status => exact BitVec.eq_of_toNat_eq ((State.toNat_statusWord _).trans rfl)
  case cls => exact BitVec.eq_of_toNat_eq ((State.toNat_readReg_cls _).trans rfl)
  case white => exact BitVec.eq_of_toNat_eq ((State.toNat_readReg_white _).trans rfl)
  all_goals rfl

end Sys2Proof.Machine

end

section
/-!
PROOFS. No trap and no halt (60_exceptions.md): every command word, every host event and every step goes on to a next
state, with the parameters unchanged.
-/

namespace Sys2Proof.Machine

/-- A command word, legal or not, goes on to a next state with the same parameters. -/
theorem State.hostCommand_next_cfg (s : State) (w : Word) : ∃ t, s.hostCommand w = .next t ∧ t.cfg = s.cfg := by
  unfold State.hostCommand
  cases decode w with
  | legal i =>
    obtain ⟨t, ht⟩ := exec_next i s
    exact ⟨t, ht, exec_cfg ht⟩
  | illegal _ => exact ⟨_, rfl, s.illegalCommand_cfg⟩

/-- Every event of the total order (20_memory.md R77) goes on to a next state with the same parameters. -/
theorem State.serve_next_cfg (s : State) (op : HostOp) : ∃ t, s.serve op = .next t ∧ t.cfg = s.cfg := by
  cases op with
  | write a n v =>
    have hw : (s.memWrite a n v).cfg = s.cfg := (s.memWrite_keepsDecoder a n v).cfg
    rw [State.serve]
    split
    · obtain ⟨t, ht, hcfg⟩ := (s.memWrite a n v).hostCommand_next_cfg v
      exact ⟨t, ht, hcfg.trans hw⟩
    · exact ⟨_, rfl, hw⟩
  | read | setInput | setSink | powerOn => exact ⟨_, rfl, rfl⟩

/-- Settles O6: an idle step holds the state (60_exceptions.md R334), and every other step serves one event. -/
theorem everyStepContinues : Obligations.EveryStepContinues := by
  intro s
  unfold step
  split
  · exact ⟨s, rfl, rfl⟩
  · next op rest _ => exact State.serve_next_cfg { s with hostQueue := rest } op

end Sys2Proof.Machine

end

section
/-!
PROOFS. Words of the opcode map (30_encoding.md section 1): what the decoder answers to words written out as numbers.
-/

namespace Sys2Proof

/-- Settles O2: each legal word is its command's encoding, and a reserved word has a nonzero ARG_RSVD or an opcode that
no command has. -/
theorem sampleWordsDecode : Obligations.SampleWordsDecode := by
  have hopcode : ∀ i, opcodeField 0x00000062 ≠ opcode i := fun i => by cases i <;> decide
  exact ⟨Machine.decode_encode .nop, Machine.decode_encode .softReset, Machine.decode_encode .classify,
    Machine.decode_encode .select, Machine.decode_encode .rleDec, Machine.decode_encode .crcCheck,
    Machine.decode_encode .frameEmit, Machine.decode_encode .decRestart,
    decode_of_argField_ne_zero (by decide), decode_of_opcodeField_reserved (by decide) hopcode⟩

end Sys2Proof

end

section
/-!
PROOFS. Reset and termination (70_reset_and_hazards.md R350, R353, R366): the power-on event, and how much input one
DEC_FRAME reads.
-/

namespace Sys2Proof.Machine

/-! ### The power-on event -/

/-- A power-on reset keeps the parameters, the environment and the host's side of the model, and nothing else. -/
theorem State.powerOn_eq_afterPowerOn (s : State) :
    s.powerOn = { State.afterPowerOn s.cfg with
      inBytes := s.inBytes, inPos := s.inPos, outBytes := s.outBytes, renderEvents := s.renderEvents
      hostQueue := s.hostQueue, hostReads := s.hostReads, draws := s.draws } := rfl

theorem step_powerOn {s : State} {rest : List HostOp} (hq : s.hostQueue = .powerOn :: rest) :
    step s = .next ({ s with hostQueue := rest } : State).powerOn := by
  rw [step, hq]
  rfl

/-- Settles O11: the step serves the event, which leaves the machine as after power-on but for the environment. -/
theorem powerOnKeepsEnvironment : Obligations.PowerOnKeepsEnvironment := by
  intro s rest hq
  rw [step_powerOn hq, State.powerOn_eq_afterPowerOn]

/-! ### The input one DEC_FRAME reads -/

/-- Under REJECT every pair read either ends the run-list or produces a byte. -/
theorem rleDecode_reject_used_le (need : Nat) (source : List Byte) :
    (rleDecode .reject need source).used ≤ 2 * need := by
  induction hn : source.length using Nat.strong_induction_on generalizing need source with
  | _ n ih =>
    subst hn
    rcases rleDecode_cases .reject need source with ⟨-, e⟩ | ⟨-, -, e⟩ | ⟨hpos, -, e⟩ | ⟨hpos, c, v, rest, rfl, e⟩
    · simp [e]
    · simp [e]
    · simp only [e]
      omega
    · rcases e with ⟨-, -, e⟩ | ⟨-, e⟩ | ⟨hle, hc, e⟩
      · simp only [e]
        omega
      · simp only [e]
        omega
      · have hone : 1 ≤ c.toNat := hc.resolve_right nofun
        have hrest := ih rest.length (by simp) (need - c.toNat) rest rfl
        rw [e, after_used]
        omega

/-- VerifyingChecksum reads no input. -/
theorem State.verifyChecksum_inPos (s : State) (h : Byte) (c : Half) (n : Nat) :
    (s.verifyChecksum h c n).inPos = s.inPos := by
  by_cases hc : crc16 s.work = c
  · rw [State.verifyChecksum_same hc, State.decodeCommit_inPos, State.setCrc_inPos]
  · rw [State.verifyChecksum_differ hc, State.decodeFail_inPos, State.setCrc_inPos]

/-- ApplyingDelta reads no input, nor does what follows it. -/
theorem State.applyDelta_inPos (s : State) (h : Byte) (c : Half) (n : Nat) :
    (s.applyDelta h c n).inPos = s.inPos := by
  by_cases hh : h.getLsbD 2 = true ∨ s.cacheValid = true
  · rw [State.applyDelta_reconstruct hh, State.verifyChecksum_inPos, State.setWork_inPos]
  · obtain ⟨hk, hv⟩ := not_or.1 hh
    rw [State.applyDelta_noHistory (eq_false_of_ne_true hk) (eq_false_of_ne_true hv), State.decodeFail_inPos]

/-- A DEC_FRAME reads at most a header, what RleDecode reads of the bytes after it, and a trailer of two bytes. -/
theorem State.awaitHeader_inPos_le (s : State) :
    s.awaitHeader.inPos ≤ s.inPos + (3 + (rleDecode s.cfg.zeroRun s.cfg.frameBytes s.unread.tail).used) := by
  rcases hu : s.unread with _ | ⟨h, source⟩
  · rw [State.awaitHeader_empty hu]
    exact Nat.le_add_right s.inPos _
  · rw [List.tail_cons]
    rcases hr : rleDecode s.cfg.zeroRun s.cfg.frameBytes source with ⟨out | k, u⟩
    · rcases hd : source.drop u with _ | ⟨t0, _ | ⟨t1, more⟩⟩
      · rw [State.awaitHeader_trailerCut hu hr hd (by decide)]
        simp only [State.decodeFail_inPos, State.advanceInput_inPos, List.length_nil]
        omega
      · rw [State.awaitHeader_trailerCut hu hr hd Nat.one_lt_two]
        simp only [State.decodeFail_inPos, State.advanceInput_inPos, List.length_singleton]
        omega
      · rw [State.awaitHeader_record hu hr hd, State.applyDelta_inPos, Nat.add_comm u]
        exact le_rfl
    · rw [State.awaitHeader_runsFail hu hr]
      simp only [State.decodeFail_inPos, State.advanceInput_inPos]
      omega

/-- Settles O47: of the bytes after the header, RleDecode reads at most two for each byte of the frame. -/
theorem decodeReadsBoundedInput : Obligations.DecodeReadsBoundedInput := by
  intro s t hz h
  obtain rfl : s.awaitHeader.nextDraw = t := Host.Outcome.next.inj h
  have hread := s.awaitHeader_inPos_le
  have hruns := rleDecode_reject_used_le s.cfg.frameBytes s.unread.tail
  rw [hz] at hread
  rw [State.nextDraw_inPos]
  omega

end Sys2Proof.Machine

end
